-- ==== Sys2Proof/Word.lean ====
section
/-! DEFINITION. The word types of the block (00_scope R5, 20_memory R51): bytes, the 16-bit values of the
checksum and of the sequence and index registers, the 32-bit values of the capture timestamps, and byte
sequences. All are unsigned; no operation of the block is signed. -/

namespace Sys2Proof

/-- A byte, an integer 0..255 (R5, R51): a number, never a character. -/
abbrev Byte := BitVec 8

/-- A 16-bit unsigned value (R23 to R25, R101). -/
abbrev Half := BitVec 16

/-- A 32-bit unsigned value (R66, R83). -/
abbrev Long := BitVec 32

/-- A finite byte sequence (R5): a message, a run, a frame, a record. -/
abbrev Bytes := List Byte

end Sys2Proof
end

