-- ==== Sys2Proof/Config.lean ====
section
/-! DEFINITION. What an implementation fixes (00_scope R4, 10_state R34): the hardwired constants, the record
of the three open parameters (CRC_TABLE, BUF_MAX, MISMATCH_ACCUMULATES), and the free values of operations
whose result the spec does not state for some operands. -/

namespace Sys2Proof

/-- The read-only table `CRC_TABLE`: 256 entries of 16 bits, index 0..255 (R57, R100). -/
abbrev CrcTable := Vector Half 256

/-- The open parameters of R4. R38: they are no state but parameters of the step; State carries one such record
that no step changes, so a statement over all states holds for every table and every parameter (log 1, log 2). -/
structure Config where
  /-- `CRC_TABLE` (R100, D1). -/
  crcTable : CrcTable
  /-- `BUF_MAX`, the capacity of `rxBuf` in bytes; `none` is unbounded (R64, D3). -/
  bufMax : Option Nat
  /-- `MISMATCH_ACCUMULATES` (R175, D12). -/
  mismatchAccumulates : Bool
  deriving DecidableEq, Repr

/-- `FLAG`, the frame delimiter (R4, R34). -/
def flagByte : Byte := 0x7E
/-- `ESC`, the escape byte (R4, R34). -/
def escByte : Byte := 0x7D
/-- `MASK`, the escape mask (R4, R34). -/
def escMask : Byte := 0x20
/-- `CRC_INIT`, the checksum seed (R4, R34, R102). -/
def crcInit : Half := 0xFFFF
/-- `MIN_UNSTUFFED`, the fewest unescaped bytes the deframer accepts (R4, R145). -/
def minUnstuffed : Nat := 7
/-- `ACK_THRESHOLD` (R4, R176). -/
def ackThreshold : Nat := 250
/-- `SEQ_FIRST`, `expectedSeqNr` after connect and after wrap (R4, R163, R177). -/
def seqFirst : Half := 1
/-- `SEQ_MAX`, the last sequence number before the wrap (R4, R177). -/
def seqMax : Half := 65535
/-- `SEQ_NONE`, the value reserved for "just connected" (R4, R176). -/
def seqNone : Half := 0
/-- `CH_MIN`, the lowest legal radio channel (R4, R74). -/
def chMin : Byte := 11
/-- `CH_MAX`, the highest legal radio channel (R4, R74). -/
def chMax : Byte := 26
/-- The largest payload the record header can express (R214). -/
def maxPayload : Nat := 65535

/-- A legal radio channel: 11..26 (R74, R160). -/
abbrev legalChannel (ch : Byte) : Prop := chMin ≤ ch ∧ ch ≤ chMax

/-- FREE VALUE: the message `MKRST` yields for a channel outside 11..26. R126 states the result for 11..26 only
and says the builder is not called otherwise (log 12). -/
opaque Config.mkrstOutOfRange : Byte → Bytes

/-- FREE VALUE: the (index, sequence, payload) `PARSEPKT` yields for a message of fewer than 5 bytes. R173
states the result for 5 bytes or more (log 13). -/
opaque Config.parsepktShort : Bytes → Half × Half × Bytes

/-- FREE VALUE: the message `MKPACKET` yields for an empty payload. R131 states the result for a payload of at least one
byte (log 14). -/
opaque Config.mkpacketEmpty : Half → Half → Bytes

/-- FREE VALUE: the record `RECORD` yields for an empty payload. R212 states the result for 1 to 65535 bytes (log 14). -/
opaque Config.recordEmpty : Long → Long → Bytes

end Sys2Proof
end

