-- ==== Sys2Proof/Machine/Operands.lean ====
section
/-! DEFINITION. The notation of R5 for splitting and assembling fields: every multi-byte quantity is big-endian
(R52, R53, R81), unsigned, never sign-extended, scaled or shifted. -/

namespace Sys2Proof.Machine

/-- `hi8(v) = (v >> 8) & 0xFF` (R5). -/
def hi8 (v : Half) : Byte := (v >>> 8).setWidth 8

/-- `lo8(v) = v & 0xFF` (R5). -/
def lo8 (v : Half) : Byte := v.setWidth 8

/-- `be16(v) = [hi8(v), lo8(v)]` (R5). -/
def be16 (v : Half) : Bytes := [hi8 v, lo8 v]

/-- `be32(v) = [(v>>24)&0xFF, (v>>16)&0xFF, (v>>8)&0xFF, v&0xFF]` (R5). -/
def be32 (v : Long) : Bytes :=
  [(v >>> 24).setWidth 8, (v >>> 16).setWidth 8, (v >>> 8).setWidth 8, v.setWidth 8]

/-- `h*256 + l`: the 16-bit value of two bytes, most significant first (R5, R52). -/
def join16 (h l : Byte) : Half := BitVec.ofNat 16 (h.toNat * 256 + l.toNat)

/-- The 32-bit value of four bytes, most significant first (R52). -/
def join32 (a b c d : Byte) : Long :=
  BitVec.ofNat 32 (((a.toNat * 256 + b.toNat) * 256 + c.toNat) * 256 + d.toNat)

/-- `u16be(s, i) = s[i]*256 + s[i+1]` (R5). It is read only where both bytes exist. -/
def u16be (s : Bytes) (i : Nat) : Half := join16 (s.getD i 0) (s.getD (i + 1) 0)

/-- The 32-bit value whose `be32` stands at offset `i` (R52, R83). -/
def u32be (s : Bytes) (i : Nat) : Long :=
  join32 (s.getD i 0) (s.getD (i + 1) 0) (s.getD (i + 2) 0) (s.getD (i + 3) 0)

/-- `n` bytes of a number, most significant first (R52): how a word of opcode_table.json, read as one number,
lies in byte order (log 11). -/
def bigEndian : Nat → Nat → Bytes
  | 0, _ => []
  | n + 1, w => BitVec.ofNat 8 (w / 256 ^ n) :: bigEndian n w

end Sys2Proof.Machine
end

