-- ==== Sys2Proof/Machine/CaptureFormat.lean ====
section
/-! DEFINITION. The byte formats of the capture stream (30_encoding R82, R83; 44_capture_sink R211, R212): neither
stuffed nor checksummed (R125). -/

namespace Sys2Proof.Machine

/-- GLOBALHEADER (R82, R211): magic, version major 2, version minor 4, timezone 0, accuracy 0, snapshot length
0xFFFF, link-layer type 0xC3. -/
def globalHeaderBytes : Bytes :=
  [0xA1, 0xB2, 0xC3, 0xD4] ++ [0x00, 0x02] ++ [0x00, 0x04] ++ [0, 0, 0, 0] ++ [0, 0, 0, 0] ++
  [0x00, 0x00, 0xFF, 0xFF] ++ [0x00, 0x00, 0x00, 0xC3]

/-- A length field (R83): top two bytes zero, bottom two the payload length. -/
def lengthField (n : Nat) : Bytes := [0, 0] ++ be16 (BitVec.ofNat 16 n)

/-- The 16-byte record header (R83): both length fields hold the same value. -/
def recordHeaderBytes (sec usec : Long) (n : Nat) : Bytes := be32 sec ++ be32 usec ++ lengthField n ++ lengthField n

/-- The layout of a record (R83): the header, then the payload unchanged. Used only for payloads of at most 65535 bytes
(R214). -/
def recordBytes (sec usec : Long) (payload : Bytes) : Bytes :=
  recordHeaderBytes sec usec payload.length ++ payload

/-- RECORD (R212): the record of a payload of at least one byte; for the empty one a free value (log 14). -/
def recordOf (sec usec : Long) (payload : Bytes) : Bytes :=
  if payload = [] then Config.recordEmpty sec usec else recordBytes sec usec payload

end Sys2Proof.Machine
end

