-- ==== Sys2Proof/Machine/Framer.lean ====
section
/-! DEFINITION. The framer (41_framer): STUFF, STUFFSEQ, ENCODE and the message builders MKRST, MKACK, MKNACK,
MKSTOP, MKREADY, MKPACKET. -/

namespace Sys2Proof.Machine

/-- STUFF (R120): 7E and 7D become the escape byte and the byte XOR 0x20; every other byte stands. -/
def stuff (b : Byte) : Bytes := if b = flagByte ∨ b = escByte then [escByte, b ^^^ escMask] else [b]

/-- STUFFSEQ (R121): each byte stuffed on its own, in order. -/
def stuffSeq (s : Bytes) : Bytes := s.flatMap stuff

/-- The run of a message's frame: everything between the two delimiters (R70, R140). -/
def frameRun (t : CrcTable) (m : Bytes) : Bytes :=
  stuffSeq m ++ stuff (hi8 (crc16 t m)) ++ stuff (lo8 (crc16 t m))

/-- ENCODE (R122): the CRC is over the unescaped bytes, high byte first, each CRC byte stuffed on its own. -/
def encodeFrame (t : CrcTable) (m : Bytes) : Bytes := [flagByte] ++ frameRun t m ++ [flagByte]

/-- The tag `RST` (R73, R74). -/
def tagRst : Bytes := [0x52, 0x53, 0x54]
/-- The tag `ACK` (R73, R76). -/
def tagAck : Bytes := [0x41, 0x43, 0x4B]
/-- The tag `NACK` (R73, R77). -/
def tagNack : Bytes := [0x4E, 0x41, 0x43, 0x4B]

/-- MKRST (R126): `52 53 54 ch` for a channel 11..26; for any other byte a free value (log 12). -/
def mkRst (ch : Byte) : Bytes := if legalChannel ch then tagRst ++ [ch] else Config.mkrstOutOfRange ch

/-- MKACK (R127). -/
def mkAck (idx seq : Half) : Bytes := tagAck ++ be16 idx ++ be16 seq

/-- MKNACK (R128). -/
def mkNack (idx seq : Half) : Bytes := tagNack ++ be16 idx ++ be16 seq

/-- MKSTOP (R129): `53 54 4F 50`. -/
def mkStop : Bytes := [0x53, 0x54, 0x4F, 0x50]

/-- MKREADY (R130): `52 45 41 44 59`. -/
def mkReady : Bytes := [0x52, 0x45, 0x41, 0x44, 0x59]

/-- The layout of an Application Packet (R80): index and sequence big-endian, then the payload. -/
def packetBytes (idx seq : Half) (payload : Bytes) : Bytes := be16 idx ++ be16 seq ++ payload

/-- MKPACKET (R131): the packet for a payload of at least one byte; for the empty one a free value (log 14). -/
def mkPacket (idx seq : Half) (payload : Bytes) : Bytes :=
  if payload = [] then Config.mkpacketEmpty idx seq else packetBytes idx seq payload

end Sys2Proof.Machine
end

