-- ==== Sys2Proof/Syntax.lean ====
section
/-! DEFINITION. The operations, events and encodings of the block as one inductive, one constructor per row of
spec/opcode_table.json (30_encoding R89 and R70 to R83). -/

namespace Sys2Proof

/-- The two output streams an emission goes to (R50, R62). -/
inductive Chan where
  /-- To the serial transport. -/
  | tx
  /-- To the capture consumer. -/
  | sink
  deriving DecidableEq, Repr

/-- A timestamp draw `now = (sec, usec)` (R66, R215): written as given, never checked. -/
structure Timestamp where
  sec : Long
  usec : Long
  deriving DecidableEq, Repr

/-- One row of the opcode table each. -/
inductive Instr where
  -- pure operations
  /-- CRCSTEP (R101). -/
  | crcstep (crc : Half) (b : Byte)
  /-- CRC16 (R102). -/
  | crc16 (bytes : Bytes)
  /-- STUFF (R120). -/
  | stuff (b : Byte)
  /-- STUFFSEQ (R121). -/
  | stuffseq (s : Bytes)
  /-- ENCODE (R122). -/
  | encode (m : Bytes)
  /-- MKRST (R126). -/
  | mkrst (ch : Byte)
  /-- MKACK (R127). -/
  | mkack (idx seq : Half)
  /-- MKNACK (R128). -/
  | mknack (idx seq : Half)
  /-- MKSTOP (R129). -/
  | mkstop
  /-- MKREADY (R130). -/
  | mkready
  /-- MKPACKET (R131). -/
  | mkpacket (idx seq : Half) (payload : Bytes)
  /-- UNSTUFF (R141). -/
  | unstuff (run : Bytes)
  /-- DECODE (R144). -/
  | decode (run : Bytes) (quiet : Bool)
  /-- PARSEPKT (R173). -/
  | parsepkt (msg : Bytes)
  /-- SEQNEXT (R177). -/
  | seqnext (s : Half)
  /-- GLOBALHEADER (R211). -/
  | globalheader
  /-- RECORD (R212). -/
  | record (sec usec : Long) (payload : Bytes)
  -- internal procedures
  /-- CLOSE (R170). -/
  | close (run : Bytes) (ts : Timestamp)
  /-- CONNECT (R163). -/
  | connect
  /-- PEERRESET (R171). -/
  | peerreset
  /-- MATCH (R174). -/
  | matchPacket (idx seq : Half) (payload : Bytes) (n : Nat) (ts : Timestamp)
  /-- MISMATCH (R175). -/
  | mismatch (seq : Half) (n : Nat)
  /-- ACKCHECK (R176). -/
  | ackcheck (n : Nat)
  /-- SENDACK (R178). -/
  | sendack
  /-- SENDNACK (R179). -/
  | sendnack
  /-- WRITE_RECORD (R213). -/
  | writeRecord (sec usec : Long) (payload : Bytes)
  /-- FatalIO (R245). -/
  | fatalIO (chan : Chan)
  -- events
  /-- RESET (R270). -/
  | reset
  /-- HDR (R210). -/
  | hdr
  /-- START (R160). -/
  | start (ch : Byte)
  /-- WINDOW (R161). -/
  | window
  /-- RX (R162, R165 to R169, R182). -/
  | rx (b : Byte) (now : Timestamp)
  /-- TIMEOUT (R164, R180, R182). -/
  | timeout
  /-- STOPREQ (R181). -/
  | stopreq
  -- wire symbols and the wire frame
  /-- FLAG, wire byte 7E (R70). -/
  | flag
  /-- ESC, wire byte 7D (R71). -/
  | esc
  /-- ESC_FLAG, wire pair 7D 5E (R120). -/
  | escFlag
  /-- ESC_ESC, wire pair 7D 5D (R120). -/
  | escEsc
  /-- ESC_ANY, wire pair 7D xx (R143). -/
  | escAny (x : Byte)
  /-- FRAME, the wire frame of a message (R70). -/
  | frame (m : Bytes)
  -- messages
  /-- RST, block to peer (R74). -/
  | rst (ch : Byte)
  /-- READY, peer to block (R75). -/
  | ready
  /-- ACK, block to peer (R76). -/
  | ack (idx seq : Half)
  /-- NACK, block to peer (R77). -/
  | nack (idx seq : Half)
  /-- STOP, block to peer (R78). -/
  | stop
  /-- PACKET, peer to block (R80). -/
  | packet (idx seq : Half) (payload : Bytes)
  -- capture stream
  /-- GLOBAL_HEADER (R82). -/
  | globalHeader
  /-- RECORD_HEADER with the payload that follows it at once (R83). -/
  | recordHeader (sec usec : Long) (payload : Bytes)
  deriving DecidableEq, Repr

/-- The kinds of rows (R89, R70 to R83). -/
inductive Instr.Kind where
  /-- Computes a value from its operands and touches no state. -/
  | pureOp
  /-- Called only from event rules. -/
  | procedure
  /-- One of the seven input events. -/
  | event
  /-- Bytes the block receives: wire symbols, the frame, and the messages of the peer. -/
  | received
  /-- Bytes the block sends: its messages on TX and the capture headers on SINK. -/
  | emitted
  deriving DecidableEq, Repr

/-- The kind of each row. -/
def Instr.kind : Instr → Instr.Kind
  | .crcstep _ _ | .crc16 _ | .stuff _ | .stuffseq _ | .encode _ | .mkrst _ | .mkack _ _ | .mknack _ _ | .mkstop
  | .mkready | .mkpacket _ _ _ | .unstuff _ | .decode _ _ | .parsepkt _ | .seqnext _ | .globalheader
  | .record _ _ _ => .pureOp
  | .close _ _ | .connect | .peerreset | .matchPacket _ _ _ _ _ | .mismatch _ _ | .ackcheck _ | .sendack | .sendnack
  | .writeRecord _ _ _ | .fatalIO _ => .procedure
  | .reset | .hdr | .start _ | .window | .rx _ _ | .timeout | .stopreq => .event
  | .flag | .esc | .escFlag | .escEsc | .escAny _ | .frame _ | .ready | .packet _ _ _ => .received
  | .rst _ | .ack _ _ | .nack _ _ | .stop | .globalHeader | .recordHeader _ _ _ => .emitted

/-- What the environment of the hardware can deliver: the seven events (R243) and received bytes. Pure operations,
internal procedures and the block's own emissions are never inputs of the hardware (log 8). -/
abbrev Instr.deliverable (i : Instr) : Prop := i.kind = .event ∨ i.kind = .received

end Sys2Proof
end

