-- ==== Sys2Proof/Machine/Reports.lean ====
section
/-! DEFINITION. The block's error causes and codes (60_exceptions R231), the events of the WARN stream (R232), and
the result types of the deframer (42_deframer R144). -/

namespace Sys2Proof.Machine

/-- Every cause of R231. -/
inductive Cause where
  | frameTooShort | checksumFailure | danglingEscape | seqMismatch | byteDropped | emptyFrame | timeoutMidframe
  | peerReset | txWriteFail | sinkWriteFail
  deriving DecidableEq, Repr

/-- The code of a cause (R231): high hexadecimal digit the class of R230, low digit a serial. -/
def Cause.code : Cause → Byte
  | .frameTooShort => 0x11
  | .checksumFailure => 0x12
  | .danglingEscape => 0x13
  | .seqMismatch => 0x21
  | .byteDropped => 0x31
  | .emptyFrame => 0x32
  | .timeoutMidframe => 0x33
  | .peerReset => 0x41
  | .txWriteFail => 0x51
  | .sinkWriteFail => 0x52

/-- The error class of a cause (R230, R231). -/
def Cause.errorClass (c : Cause) : Nat := c.code.toNat / 16

/-- The reason of a rejection (R144). -/
inductive RejectReason where
  | frameTooShort | checksumFailure | danglingEscape
  deriving DecidableEq, Repr

/-- A warning with the arguments R231 records. TIMEOUT_MIDFRAME produces none (D11). -/
inductive Warning where
  /-- 0x11 with the unstuffed length (R145). -/
  | frameTooShort (len : Nat)
  /-- 0x12 with the received and the computed CRC (R146). -/
  | checksumFailure (got computed : Half)
  /-- 0x13 (R142). -/
  | danglingEscape
  /-- 0x21 with the received and the expected sequence number (R175). -/
  | seqMismatch (received expected : Half)
  /-- 0x31 with the byte (R165). -/
  | byteDropped (b : Byte)
  /-- 0x32 (R168). -/
  | emptyFrame
  deriving DecidableEq, Repr

/-- The cause of a warning (R231). -/
def Warning.cause : Warning → Cause
  | .frameTooShort _ => .frameTooShort
  | .checksumFailure _ _ => .checksumFailure
  | .danglingEscape => .danglingEscape
  | .seqMismatch _ _ => .seqMismatch
  | .byteDropped _ => .byteDropped
  | .emptyFrame => .emptyFrame

/-- The recorded arguments of a warning, in the order of R231. -/
def Warning.args : Warning → List Nat
  | .frameTooShort n => [n]
  | .checksumFailure g c => [g.toNat, c.toNat]
  | .danglingEscape => []
  | .seqMismatch r e => [r.toNat, e.toNat]
  | .byteDropped b => [b.toNat]
  | .emptyFrame => []

/-- The conditions the host must act on (R232). -/
inductive Signal where
  | peerReset | txWriteFail | sinkWriteFail
  deriving DecidableEq, Repr

/-- The cause of a signal (R231). -/
def Signal.cause : Signal → Cause
  | .peerReset => .peerReset
  | .txWriteFail => .txWriteFail
  | .sinkWriteFail => .sinkWriteFail

/-- The status of one emission, a draw of the environment (R62). -/
inductive WriteStatus where
  | ok | fail
  deriving DecidableEq, Repr

/-- One entry of the ordered output history (R60, D28). An emission records the attempted bytes and its status; how
many bytes of a failed one arrived is not recorded (U11, log 17). -/
inductive Output where
  | emission (chan : Chan) (bytes : Bytes) (status : WriteStatus)
  | warn (w : Warning)
  | signal (g : Signal)
  deriving DecidableEq, Repr

/-- The WARN-stream event of an output, as code and arguments (R231, R232); none for an emission. -/
def Output.report : Output → Option (Byte × List Nat)
  | .emission _ _ _ => none
  | .warn w => some (w.cause.code, w.args)
  | .signal g => some (g.cause.code, [])

/-- The result of DECODE (R144, R147, R148). -/
inductive DecodeResult where
  | ok (msg : Bytes) (crc : Half)
  | reject (reason : RejectReason)
  deriving DecidableEq, Repr

end Sys2Proof.Machine
end

