-- ==== Sys2Proof/Machine/Deframer.lean ====
section
/-! DEFINITION. The deframer (42_deframer): UNSTUFF and DECODE, and the two pure operations on a decoded message,
PARSEPKT and SEQNEXT (43_link_state_machine R173, R177). -/

namespace Sys2Proof.Machine

/-- UNSTUFF (R141): left to right, an escape byte is dropped and the byte after it XORed with 0x20, whatever it is
(R143); `none` is `DanglingEscape`, an escape byte with no byte after it (R142). -/
def unstuff : Bytes → Option Bytes
  | [] => some []
  | [b] => if b = escByte then none else some [b]
  | b :: c :: rest =>
    if b = escByte then (unstuff rest).map ((c ^^^ escMask) :: ·) else (unstuff (c :: rest)).map (b :: ·)

/-- DECODE (R144) with the warning it gives when it is not quiet: dangling escape, then length, then CRC (R244). -/
def deframe (t : CrcTable) (run : Bytes) : DecodeResult × Option Warning :=
  match unstuff run with
  | none => (.reject .danglingEscape, some .danglingEscape)
  | some u =>
    if u.length < minUnstuffed then (.reject .frameTooShort, some (.frameTooShort u.length))
    else
      let msg := u.take (u.length - 2)
      let got := u16be u (u.length - 2)
      let computed := crc16 t msg
      if got = computed then (.ok msg computed, none)
      else (.reject .checksumFailure, some (.checksumFailure got computed))

/-- PARSEPKT (R173, R81): `(u16be(msg, 0), u16be(msg, 2), msg[4:])` for 5 bytes or more; for a shorter message a
free value (log 13). -/
def parsePkt (msg : Bytes) : Half × Half × Bytes :=
  if 5 ≤ msg.length then (u16be msg 0, u16be msg 2, msg.drop 4) else Config.parsepktShort msg

/-- SEQNEXT (R177): 65535 is followed by 1, never by 0. -/
def seqNext (s : Half) : Half := if s = seqMax then seqFirst else s + 1

end Sys2Proof.Machine
end

