-- ==== Sys2Proof/WellFormed.lean ====
section
/-! DEFINITION. The operand conditions the spec and the opcode table state: a well-formed row has its operands in
the stated domain. exec gives every row its meaning on ill-formed operands too (a named refusal or a free value
where the spec says so). -/

namespace Sys2Proof

open Machine

/-- A payload a record can hold: 1 to 65535 bytes (R212, R214). -/
def recordablePayload (p : Bytes) : Bool := decide (1 ≤ p.length ∧ p.length ≤ maxPayload)

/-- A run never contains the delimiter (R140). -/
def delimiterFree (run : Bytes) : Bool := !run.contains flagByte

/-- The operand conditions of each row. -/
def Instr.wf : Instr → Bool
  | .crcstep _ _ => true
  | .crc16 _ => true
  | .stuff _ => true
  | .stuffseq _ => true
  | .encode _ => true
  | .mkrst ch => decide (legalChannel ch)                       -- R126
  | .mkack _ _ => true
  | .mknack _ _ => true
  | .mkstop => true
  | .mkready => true
  | .mkpacket _ _ payload => decide (1 ≤ payload.length)        -- R131
  | .unstuff run => delimiterFree run                           -- R140
  | .decode run _ => delimiterFree run                          -- R140
  | .parsepkt msg => decide (5 ≤ msg.length)                    -- R173
  | .seqnext _ => true
  | .globalheader => true
  | .record _ _ payload => recordablePayload payload            -- R212
  | .close run _ => delimiterFree run                           -- R140
  | .connect => true
  | .peerreset => true
  | .matchPacket _ _ payload n _ => recordablePayload payload && decide (n = 4 + payload.length)   -- R174
  | .mismatch _ n => decide (5 ≤ n)                             -- R175, R173
  | .ackcheck _ => true
  | .sendack => true
  | .sendnack => true
  | .writeRecord _ _ payload => recordablePayload payload       -- R213, R214
  | .fatalIO _ => true
  | .reset => true
  | .hdr => true
  | .start ch => decide (legalChannel ch)                       -- R160
  | .window => true
  | .rx _ _ => true
  | .timeout => true
  | .stopreq => true
  | .flag => true
  | .esc => true
  | .escFlag => true
  | .escEsc => true
  | .escAny x => decide (x ≠ flagByte ∧ x ≠ 0x5E ∧ x ≠ 0x5D)    -- R71: no delimiter; 5E and 5D are rows of their own
  | .frame _ => true
  | .rst ch => decide (legalChannel ch)                         -- R74
  | .ready => true
  | .ack _ _ => true
  | .nack _ _ => true
  | .stop => true
  | .packet idx seq payload => decide (1 ≤ payload.length) && decide (packetBytes idx seq payload ≠ mkReady)   -- R80, R84, R274
  | .globalHeader => true
  | .recordHeader _ _ payload => recordablePayload payload      -- R83, R214

end Sys2Proof
end

