-- ==== Sys2Proof/Decode.lean ====
section
/-! DEFINITION. From bytes to rows of the opcode table and back. A byte string is read in one of five spaces
(log 11): the raw wire (R70, R71), messages the block sends (R79), messages the peer sends (R84), the capture stream
(R82, R83), and trace lines (R90). Pure operations and internal procedures have no encoding (opcode_table.json:
"encoding: none"). Decoding is total and rejects by name; the encoder stands after it. -/

namespace Sys2Proof

open Machine

/-- Where a byte string is read. -/
inductive Space where
  /-- The raw serial line: symbols and whole frames (R70, R71). -/
  | wire
  /-- An unescaped message, block to peer (R79). -/
  | toPeer
  /-- An unescaped message, peer to block (R79, R84). -/
  | fromPeer
  /-- The capture stream (R82, R83). -/
  | capture
  /-- A line of a trace (R90). -/
  | trace
  deriving DecidableEq, Repr

/-- Why a byte string is no row of the table in its space. -/
inductive DecodeError where
  /-- No wire symbol and no frame that `ENCODE` yields (R70, R71). -/
  | noWireRow
  /-- `7D 7E`: the delimiter ends the run, so it is never the second byte of a pair (R71, R86). -/
  | delimiterInEscapePair
  /-- None of RST, ACK, NACK, STOP (R74, R76 to R78). -/
  | noMessageToPeer
  /-- A received message has at least 5 bytes (R80, R145). -/
  | messageTooShort
  /-- Neither the global header nor a record (R82, R83). -/
  | noCaptureHeader
  /-- Not a line of R90. -/
  | noTraceLine
  deriving DecidableEq, Repr

/-- What the decoder answers. -/
inductive Decoded where
  | row (i : Instr)
  | error (e : DecodeError)
  deriving DecidableEq, Repr

/-! ### The wire -/

/-- The message of a whole frame, if `ENCODE` yields exactly these bytes (R70, R122). -/
def decodeFrame (t : CrcTable) (bs : Bytes) : Decoded :=
  match unstuff (bs.tail.dropLast) with
  | none => .error .noWireRow
  | some u =>
    let m := u.take (u.length - 2)
    if encodeFrame t m = bs then .row (.frame m) else .error .noWireRow

/-- Wire symbols and frames (R70, R71, R120, R143). -/
def decodeWire (t : CrcTable) (bs : Bytes) : Decoded :=
  if bs = [flagByte] then .row .flag
  else if bs = [escByte] then .row .esc
  else match bs with
    | [b, x] =>
      if b ≠ escByte then .error .noWireRow
      else if x = 0x5E then .row .escFlag
      else if x = 0x5D then .row .escEsc
      else if x = flagByte then .error .delimiterInEscapePair
      else .row (.escAny x)
    | _ => decodeFrame t bs

/-! ### Messages -/

/-- Messages the block sends: RST, ACK, NACK, STOP by their fixed tags and lengths (R74, R76, R77, R78). The
channel byte of RST is read whatever it is; WellFormed asks for 11..26. -/
def decodeToPeer (bs : Bytes) : Decoded :=
  if bs = mkStop then .row .stop
  else if bs.length = 4 ∧ bs.take 3 = tagRst then .row (.rst (bs.getD 3 0))
  else if bs.length = 7 ∧ bs.take 3 = tagAck then .row (.ack (u16be bs 3) (u16be bs 5))
  else if bs.length = 8 ∧ bs.take 4 = tagNack then .row (.nack (u16be bs 4) (u16be bs 6))
  else .error .noMessageToPeer

/-- Messages the peer sends, in the order of R84: exactly READY, else an Application Packet whatever its content. -/
def decodeFromPeer (bs : Bytes) : Decoded :=
  if bs = mkReady then .row .ready
  else if 5 ≤ bs.length then .row (.packet (u16be bs 0) (u16be bs 2) (bs.drop 4))
  else .error .messageTooShort

/-! ### The capture stream -/

/-- The global header, or a record: a 16-byte header whose two length fields hold the length of what follows. -/
def decodeCapture (bs : Bytes) : Decoded :=
  let payload := bs.drop 16
  if bs = globalHeaderBytes then .row .globalHeader
  else if payload.length ≤ maxPayload ∧ bs = recordBytes (u32be bs 0) (u32be bs 4) payload then
    .row (.recordHeader (u32be bs 0) (u32be bs 4) payload)
  else .error .noCaptureHeader

/-! ### Trace lines (R90): ASCII text, one event a line -/

/-- `RESET` in ASCII (R90). -/
def wordReset : Bytes := [0x52, 0x45, 0x53, 0x45, 0x54]
/-- `HDR` in ASCII (R90). -/
def wordHdr : Bytes := [0x48, 0x44, 0x52]
/-- `START` and a space in ASCII (R90). -/
def wordStart : Bytes := [0x53, 0x54, 0x41, 0x52, 0x54, 0x20]
/-- `WINDOW` in ASCII (R90). -/
def wordWindow : Bytes := [0x57, 0x49, 0x4E, 0x44, 0x4F, 0x57]
/-- `RX` and a space in ASCII (R90). -/
def wordRx : Bytes := [0x52, 0x58, 0x20]
/-- `TIMEOUT` in ASCII (R90). -/
def wordTimeout : Bytes := [0x54, 0x49, 0x4D, 0x45, 0x4F, 0x55, 0x54]
/-- `STOPREQ` in ASCII (R90). -/
def wordStopreq : Bytes := [0x53, 0x54, 0x4F, 0x50, 0x52, 0x45, 0x51]
/-- Space, at-sign, space in ASCII (R90). -/
def wordAt : Bytes := [0x20, 0x40, 0x20]
/-- The full stop between seconds and microseconds (R90). -/
def charDot : Byte := 0x2E

/-- The rest of `bs` after `lead`, if it begins with it. -/
def afterLead (lead bs : Bytes) : Option Bytes :=
  if bs.take lead.length = lead then some (bs.drop lead.length) else none

/-- The ASCII digit of a number below 10. -/
def decimalDigit (n : Nat) : Byte := BitVec.ofNat 8 (0x30 + n)

/-- A number in decimal, at most `k` digits (R90: "timestamp draw, decimal"). -/
def decimal : Nat → Nat → Bytes
  | 0, _ => []
  | k + 1, n => if n < 10 then [decimalDigit n] else decimal k (n / 10) ++ [decimalDigit (n % 10)]

/-- One more decimal digit after a number. -/
def decimalNext (acc : Option Nat) (b : Byte) : Option Nat :=
  acc.bind fun a => if 0x30 ≤ b.toNat ∧ b.toNat ≤ 0x39 then some (a * 10 + (b.toNat - 0x30)) else none

/-- A decimal number of one digit or more. -/
def readDecimal (bs : Bytes) : Option Nat := if bs = [] then none else bs.foldl decimalNext (some 0)

/-- The upper-case ASCII hexadecimal digit of a number below 16. -/
def hexDigit (n : Nat) : Byte := BitVec.ofNat 8 (if n < 10 then 0x30 + n else 0x37 + n)

/-- The value of an upper-case hexadecimal digit. -/
def readHexDigit (b : Byte) : Option Nat :=
  if 0x30 ≤ b.toNat ∧ b.toNat ≤ 0x39 then some (b.toNat - 0x30)
  else if 0x41 ≤ b.toNat ∧ b.toNat ≤ 0x46 then some (b.toNat - 0x37)
  else none

/-- DESIGN CHOICE (log 19): what an omitted timestamp reads as. R90 lets a line omit it where the byte cannot close a frame, and
R91 writes none on RXREADY and on the bytes of RXRUN before its closing delimiter. -/
def omittedStamp : Timestamp := ⟨0, 0⟩

/-- The timestamp of an RX line: `@ <sec>.<usec>`, or omitted (R90, log 19). -/
def readStamp (bs : Bytes) : Option Timestamp :=
  if bs = [] then some omittedStamp
  else
    (afterLead wordAt bs).bind fun r =>
      match readDecimal (r.takeWhile (· ≠ charDot)), readDecimal ((r.dropWhile (· ≠ charDot)).tail) with
      | some s, some u => if s < 2 ^ 32 ∧ u < 2 ^ 32 then some ⟨BitVec.ofNat 32 s, BitVec.ofNat 32 u⟩ else none
      | _, _ => none

/-- The operand of START: a decimal number that fits the 8-bit register (R22, R90). -/
def readStart (r : Bytes) : Decoded :=
  match readDecimal r with
  | some n => if n < 256 then .row (.start (BitVec.ofNat 8 n)) else .error .noTraceLine
  | none => .error .noTraceLine

/-- The operands of RX: two hexadecimal digits, then the timestamp. -/
def readRx (r : Bytes) : Decoded :=
  match r with
  | h :: l :: tail =>
    match readHexDigit h, readHexDigit l, readStamp tail with
    | some a, some b, some now => .row (.rx (BitVec.ofNat 8 (a * 16 + b)) now)
    | _, _, _ => .error .noTraceLine
  | _ => .error .noTraceLine

/-- A trace line (R90). -/
def decodeTrace (bs : Bytes) : Decoded :=
  if bs = wordReset then .row .reset
  else if bs = wordHdr then .row .hdr
  else if bs = wordWindow then .row .window
  else if bs = wordTimeout then .row .timeout
  else if bs = wordStopreq then .row .stopreq
  else match afterLead wordStart bs with
    | some r => readStart r
    | none =>
      match afterLead wordRx bs with
      | some r => readRx r
      | none => .error .noTraceLine

/-! ### Decoder and encoder -/

/-- The decoder: total on every byte string in every space. -/
def decode (t : CrcTable) (sp : Space) (bs : Bytes) : Decoded :=
  match sp with
  | .wire => decodeWire t bs
  | .toPeer => decodeToPeer bs
  | .fromPeer => decodeFromPeer bs
  | .capture => decodeCapture bs
  | .trace => decodeTrace bs

/-- The RX line of R90 with its timestamp. -/
def rxLine (b : Byte) (now : Timestamp) : Bytes :=
  wordRx ++ [hexDigit (b.toNat / 16), hexDigit (b.toNat % 16)] ++ wordAt ++
    decimal 10 now.sec.toNat ++ [charDot] ++ decimal 10 now.usec.toNat

/-- The encoder: the space and the bytes of a row, from the formats of 30_encoding; none for the pure operations and
internal procedures, which have no byte pattern (R89). -/
def encode (t : CrcTable) : Instr → Option (Space × Bytes)
  | .crcstep _ _ | .crc16 _ | .stuff _ | .stuffseq _ | .encode _ | .mkrst _ | .mkack _ _ | .mknack _ _ | .mkstop
  | .mkready | .mkpacket _ _ _ | .unstuff _ | .decode _ _ | .parsepkt _ | .seqnext _ | .globalheader
  | .record _ _ _ => none
  | .close _ _ | .connect | .peerreset | .matchPacket _ _ _ _ _ | .mismatch _ _ | .ackcheck _ | .sendack | .sendnack
  | .writeRecord _ _ _ | .fatalIO _ => none
  | .reset => some (.trace, wordReset)
  | .hdr => some (.trace, wordHdr)
  | .start ch => some (.trace, wordStart ++ decimal 3 ch.toNat)
  | .window => some (.trace, wordWindow)
  | .rx b now => some (.trace, rxLine b now)
  | .timeout => some (.trace, wordTimeout)
  | .stopreq => some (.trace, wordStopreq)
  | .flag => some (.wire, [flagByte])
  | .esc => some (.wire, [escByte])
  | .escFlag => some (.wire, [escByte, 0x5E])
  | .escEsc => some (.wire, [escByte, 0x5D])
  | .escAny x => some (.wire, [escByte, x])
  | .frame m => some (.wire, encodeFrame t m)
  | .rst ch => some (.toPeer, tagRst ++ [ch])
  | .ready => some (.fromPeer, mkReady)
  | .ack idx seq => some (.toPeer, tagAck ++ be16 idx ++ be16 seq)
  | .nack idx seq => some (.toPeer, tagNack ++ be16 idx ++ be16 seq)
  | .stop => some (.toPeer, mkStop)
  | .packet idx seq payload => some (.fromPeer, packetBytes idx seq payload)
  | .globalHeader => some (.capture, globalHeaderBytes)
  | .recordHeader sec usec payload => some (.capture, recordBytes sec usec payload)

/-! ### Words as opcode_table.json numbers them -/

/-- The bytes of a table word in a space: `match` and `mask` are the byte pattern read as one number, first byte
most significant (98_reader; log 11). The table gives RECORD_HEADER its 16 header bytes and no payload bytes, so in the
capture space the payload a 16-byte header announces is laid down as zeros. -/
def tableWordBytes (sp : Space) (nbits w : Nat) : Bytes :=
  let bs := bigEndian (nbits / 8) w
  match sp with
  | .capture => if bs.length = 16 then bs ++ List.replicate (u16be bs 10).toNat 0 else bs
  | .wire | .toPeer | .fromPeer | .trace => bs

/-- The first of the spaces in which the word is a row, with its bytes and the row. -/
def firstReading (t : CrcTable) (nbits w : Nat) : List Space → Option (Space × Bytes × Instr)
  | [] => none
  | sp :: rest =>
    match decode t sp (tableWordBytes sp nbits w) with
    | .row i => some (sp, tableWordBytes sp nbits w, i)
    | .error _ => firstReading t nbits w rest

/-- A table word says no space: wire symbols and the fixed messages of the block are tried first, then the capture
stream, then what R84 reads as READY or a packet (log 11). -/
def readTableWord (t : CrcTable) (nbits w : Nat) : Option (Space × Bytes × Instr) :=
  firstReading t nbits w [.wire, .toPeer, .capture, .fromPeer]

/-- The row the decoder reads from a word numbered as opcode_table.json numbers it. DESIGN CHOICE (log 1): a word comes with no
state, so a word that is a whole FRAME is read with the default table of R106, although the contents of CRC_TABLE are open
(R100, N1, D1). A step reads frames with the table its own state holds (`fetchWire`), and `withFetchWord` places words so. -/
def decodeTableWord (nbits w : Nat) : Option Instr := (readTableWord defaultCrcTable nbits w).map (·.2.2)

end Sys2Proof
end

