-- ==== Sys2Proof/Machine/State.lean ====
section
/-! DEFINITION. The state of the machine as plain data: the ten architectural fields of R20, the constants and
parameters that no step changes, and the environment's side of a step (pending inputs, draws, output history). -/

namespace Sys2Proof.Machine

/-- The connection phase (R21). `stopping` is also the idle phase and the phase after reset. -/
inductive Phase where
  | stopping | connecting | connected
  deriving DecidableEq, Repr

/-- The 2-bit encoding R21 suggests; no rule depends on it. -/
def Phase.code : Phase → BitVec 2
  | .stopping => 0
  | .connecting => 1
  | .connected => 2

/-- What one pending input brings: a row of the table given as such, or what the serial line brings in coded form. A byte
string that is no row of the table has its effect too (R86, log 16). -/
inductive Request where
  | instr (i : Instr)
  /-- Raw bytes of the line (R70, R71), whatever they are. -/
  | wire (bytes : Bytes)
  /-- An unescaped message of the peer (R79, R84), whatever it is: its frame arrives. -/
  | message (msg : Bytes)
  deriving DecidableEq, Repr

/-- One pending input of the trace with the draws the environment supplies to its step (R8, R38): the timestamp draw for
bytes in coded form, and one write status per emission on each stream. -/
structure Input where
  request : Request
  clock : Timestamp
  txDraws : List WriteStatus
  sinkDraws : List WriteStatus
  deriving DecidableEq, Repr

/-- The value the last pure operation returned: the model's own field, written by pure operations only (log 7). -/
inductive OpResult where
  /-- No pure operation has run since reset. -/
  | none
  /-- A 16-bit value: CRCSTEP, CRC16, SEQNEXT. -/
  | half (v : Half)
  /-- A byte sequence: STUFF, STUFFSEQ, ENCODE, the builders, GLOBALHEADER, RECORD. -/
  | bytes (bs : Bytes)
  /-- UNSTUFF: the bytes, or none for DanglingEscape (R141). -/
  | unstuffed (r : Option Bytes)
  /-- DECODE (R144). -/
  | decoded (r : DecodeResult)
  /-- PARSEPKT: index, sequence number, payload (R173). -/
  | packet (idx seq : Half) (payload : Bytes)
  deriving DecidableEq, Repr

/-- The whole state. -/
structure State where
  /-- R21. -/
  phase : Phase
  /-- R22. -/
  channel : Byte
  /-- R23. -/
  expectedSeqNr : Half
  /-- R24. -/
  lastIndex : Half
  /-- R25. -/
  lastSeqNr : Half
  /-- R26: a natural number without bound. -/
  unackedByteCount : Nat
  /-- R27. -/
  receiving : Bool
  /-- R28, R64. -/
  rxBuf : Bytes
  /-- R29. -/
  hdrWritten : Bool
  /-- R30. -/
  fatal : Bool
  /-- The constants and parameters of R34 and R38, read-only (log 1, log 2). -/
  cfg : Config
  /-- Pending inputs, oldest first: the trace still to come (log 3). -/
  inputs : List Input
  /-- The timestamp draw for bytes in coded form (R66, R254): a free value (log 5). -/
  clock : Timestamp
  /-- The write statuses drawn for TX emissions, next first; every further one is `ok` (R62, R90, log 4). -/
  txDraws : List WriteStatus
  /-- The write statuses drawn for SINK emissions, next first; every further one is `ok` (R62, R90, log 4). -/
  sinkDraws : List WriteStatus
  /-- Everything emitted, warned and signalled since reset, oldest first (R60, D28, log 6). -/
  outputs : List Output
  /-- The value of the last pure operation (log 7). -/
  result : OpResult
  deriving DecidableEq, Repr

/-- Why the machine stops with a fault: no reason exists. The block has no illegal-instruction trap (R86), every error of
R231 is a next state (R245 among them), and a step never faults. -/
inductive Fault : Type
  deriving DecidableEq, Repr

/-- Inputs to which R250 deliberately gives no meaning; every one is safe: nothing can be proved of what follows. -/
inductive Refusal where
  /-- Raised by an arm of exec that has no meaning yet; no arm does. -/
  | notModelled (mnemonic : String)
  /-- Any event but RESET while `fatal = 1` (R250, U4); raised by every event and coded row. -/
  | eventWhileFatal
  /-- START with `hdrWritten = 0` (R160, R250, U5). -/
  | startBeforeHeader
  /-- START with a channel outside 11..26 (R160, R250, U5). -/
  | channelOutOfRange
  /-- START while `Connected` (R160, R250, U5). -/
  | startWhileConnected
  /-- HDR while `hdrWritten = 1` (R210, R250, U6). -/
  | headerAlreadyWritten
  /-- An append that would make `rxBuf` longer than `BUF_MAX` (R64, R250, U2). -/
  | bufferOverflow
  /-- A record payload longer than 65535 bytes (R214, R250, U7); raised by RECORD, WRITE_RECORD, RECORD_HEADER and what
  calls WRITE_RECORD. -/
  | payloadTooLong
  deriving DecidableEq, Repr

/-- How a rule stands: it runs on, it was abandoned because FatalIO ran (R62, R245), or it was refused (R250). -/
inductive Flow where
  | go (s : State)
  | dead (s : State)
  | refuse (r : Refusal)
  deriving DecidableEq, Repr

/-- The machine right after reset (R40, R270): idle in `Stopping`, every other field 0 or empty, nothing emitted; the
model's own fields are empty (logs 3 to 7), the parameters at the spec's defaults (logs 1, 2). -/
def State.reset : State where
  phase := .stopping
  channel := 0
  expectedSeqNr := 0
  lastIndex := 0
  lastSeqNr := 0
  unackedByteCount := 0
  receiving := false
  rxBuf := []
  hdrWritten := false
  fatal := false
  cfg := defaultConfig
  inputs := []
  clock := ⟨0, 0⟩
  txDraws := []
  sinkDraws := []
  outputs := []
  result := .none

end Sys2Proof.Machine
end

