-- ==== Sys2Proof/Machine/Flags.lean ====
section
/-! DEFINITION. The three flags (10_state R31): `receiving` with the buffer it governs, `hdrWritten`, `fatal`; and the
tests the rules make, which are evaluated where they are used and never stored. -/

namespace Sys2Proof.Machine

/-- `x[receiving] <- 0 ; x[rxBuf] <- []` (R160, R161, R163, R169, R180, R181, R245). -/
def State.leaveFrame (s : State) : State := { s with receiving := false, rxBuf := [] }

/-- `x[receiving] <- 1 ; x[rxBuf] <- []` (R162, R166). -/
def State.openFrame (s : State) : State := { s with receiving := true, rxBuf := [] }

/-- `x[hdrWritten] <- 1` (R210). -/
def State.markHeader (s : State) : State := { s with hdrWritten := true }

/-- The frame state cleared, `phase <- Stopping`, `x[fatal] <- 1`: the last lines of FatalIO (R245). -/
def State.latchFatal (s : State) : State :=
  { s with receiving := false, rxBuf := [], phase := .stopping, fatal := true }

/-- `len(rxBuf) + 1` exceeds `BUF_MAX` (R64). -/
def State.bufferFull (s : State) : Bool :=
  match s.cfg.bufMax with
  | none => false
  | some k => decide (k < s.rxBuf.length + 1)

/-- `unackedByteCount >= 250 and lastSeqNr != 0` (R176). -/
def State.ackDue (s : State) : Bool := decide (ackThreshold ≤ s.unackedByteCount) && decide (s.lastSeqNr ≠ seqNone)

end Sys2Proof.Machine
end

