-- ==== Sys2Proof/Machine/Ops.lean ====
section
/-! DEFINITION. The shared operations (R6): warnings and signals, `MemWrite` with its status draw, the fatal path
FatalIO (the block's one exception entry, R245), the append to `rxBuf`, and the sequencing of rules. -/

namespace Sys2Proof.Machine

open Host (Outcome)

/-! ### Sequencing -/

/-- Go on with the next line of a rule; after FatalIO or a refusal no later line is performed (R62, R245, R250). -/
def Flow.andThen (f : Flow) (k : State → Flow) : Flow :=
  match f with
  | .go s => k s
  | .dead s => .dead s
  | .refuse r => .refuse r

/-- The outcome of a whole rule: an abandoned rule ends in the fatal state (R245), a refused one has no meaning. -/
def Flow.outcome : Flow → Outcome State Fault Refusal
  | .go s => .next s
  | .dead s => .next s
  | .refuse r => .refused r

/-- Run an event rule: every event is refused while `fatal = 1` (R250). -/
def runEvent (s : State) (rule : State → Flow) : Outcome State Fault Refusal :=
  if s.fatal then .refused .eventWhileFatal else (rule s).outcome

/-! ### Outputs -/

/-- Append one entry to the output history (R60). -/
def State.output (s : State) (o : Output) : State := { s with outputs := s.outputs ++ [o] }

/-- `warn(code, args)` (R232): changes nothing else and cannot fail. -/
def State.warn (s : State) (w : Warning) : State := s.output (.warn w)

/-- `signal(code)` (R232). -/
def State.signal (s : State) (g : Signal) : State := s.output (.signal g)

/-- The write status the environment has drawn for the next emission on a stream (R62); `ok` where no draw is left
(R90, log 4). -/
def State.status (s : State) (c : Chan) : WriteStatus :=
  match c with
  | .tx => s.txDraws.headD .ok
  | .sink => s.sinkDraws.headD .ok

/-- A draw is used up by its emission (R62: "a draw, one per emission"). -/
def State.useDraw (s : State) (c : Chan) : State :=
  match c with
  | .tx => { s with txDraws := s.txDraws.tail }
  | .sink => { s with sinkDraws := s.sinkDraws.tail }

/-- One emission attempted: its bytes and status go to the history, its draw is used up (R55, R56, R62, U11). -/
def State.attempt (s : State) (c : Chan) (bytes : Bytes) : State :=
  (s.useDraw c).output (.emission c bytes (s.status c))

/-! ### The fatal path -/

/-- The signal of a failed stream (R245). -/
def failSignal : Chan → Signal
  | .tx => .txWriteFail
  | .sink => .sinkWriteFail

/-- FatalIO (R245), the block's one exception entry: signal; if the capture sink failed in an active session, one STOP
attempt on TX whose status is ignored; then frame state cleared, `phase <- Stopping`, `fatal <- 1`. There is no return
(R247); only RESET leaves it. -/
def fatalIO (c : Chan) (s : State) : State :=
  let s1 := s.signal (failSignal c)
  let s2 := if c = .sink ∧ s1.phase ≠ .stopping then s1.attempt .tx (encodeFrame s1.cfg.crcTable mkStop) else s1
  s2.latchFatal

/-- `MemWrite(chan, bytes)` (R62): one emission; on `fail` FatalIO runs and the rule is abandoned. -/
def memWrite (c : Chan) (bytes : Bytes) (s : State) : Flow :=
  match s.status c with
  | .ok => .go (s.attempt c bytes)
  | .fail => .dead (fatalIO c (s.attempt c bytes))

/-- A control frame on TX: `MemWrite(TX, ENCODE(msg))` (R125). -/
def sendMessage (msg : Bytes) (s : State) : Flow := memWrite .tx (encodeFrame s.cfg.crcTable msg) s

/-! ### The receive buffer -/

/-- `x[rxBuf] <- x[rxBuf] ++ [b]`; an append beyond BUF_MAX is refused (R64, R162, R167). -/
def appendByte (b : Byte) (s : State) : Flow :=
  if s.bufferFull then .refuse .bufferOverflow else .go { s with rxBuf := s.rxBuf ++ [b] }

/-! ### Results of pure operations -/

/-- Keep the value of a pure operation (log 7); a pure operation touches no architectural state (R89). -/
def State.setResult (s : State) (r : OpResult) : State := { s with result := r }

/-- The warning of a DECODE call, unless it is quiet (R144, R149). -/
def State.warnUnlessQuiet (s : State) (quiet : Bool) (w : Option Warning) : State :=
  match quiet, w with
  | false, some x => s.warn x
  | false, none => s
  | true, _ => s

end Sys2Proof.Machine
end

