-- ==== Sys2Proof/Machine/Procedures.lean ====
section
/-! DEFINITION. The internal procedures of the link state machine and the capture sink (43_link_state_machine R163,
R170 to R180, 44_capture_sink R213) as operations the event rules share, and the meaning of each as a row. A row's
meaning is the procedure's body: the checks of an event (`fatal`) belong to the event that calls it (log 15). -/

namespace Sys2Proof.Machine

open Host (Outcome)

/-! ### The shared operations -/

/-- CONNECT (R163). -/
def connect (s : State) : State :=
  { s with expectedSeqNr := seqFirst, lastIndex := 0, lastSeqNr := seqNone, unackedByteCount := 0,
           receiving := false, rxBuf := [], phase := .connected }

/-- PEERRESET (R171). -/
def peerReset (s : State) : State := { s.signal .peerReset with phase := .connecting }

/-- SENDACK (R178). -/
def sendAck (s : State) : Flow := sendMessage (mkAck s.lastIndex s.lastSeqNr) s

/-- SENDNACK (R179): no guard, no state written. -/
def sendNack (s : State) : Flow := sendMessage (mkNack s.lastIndex s.lastSeqNr) s

/-- `x[unackedByteCount] <- x[unackedByteCount] + n` (R176). -/
def State.countBytes (s : State) (n : Nat) : State := { s with unackedByteCount := s.unackedByteCount + n }

/-- `x[unackedByteCount] <- 0` (R176). -/
def State.clearCount (s : State) : State := { s with unackedByteCount := 0 }

/-- ACKCHECK (R176): count, then at most one ACK when the threshold is reached and a packet has been accepted. -/
def ackCheck (n : Nat) (s : State) : Flow :=
  let s1 := s.countBytes n
  if s1.ackDue then (sendAck s1).andThen fun s2 => .go s2.clearCount else .go s1

/-- WRITE_RECORD (R213): a payload longer than 65535 bytes is refused (R214). -/
def writeRecord (sec usec : Long) (payload : Bytes) (s : State) : Flow :=
  if maxPayload < payload.length then .refuse .payloadTooLong
  else memWrite .sink (recordOf sec usec payload) s

/-- The register writes of MATCH (R174). -/
def State.acceptPacket (s : State) (idx seq : Half) : State :=
  { s with expectedSeqNr := seqNext s.expectedSeqNr, lastIndex := idx, lastSeqNr := seq }

/-- MATCH (R174): registers, then the record, then the ACK bookkeeping. -/
def matchPacket (idx seq : Half) (payload : Bytes) (n : Nat) (ts : Timestamp) (s : State) : Flow :=
  (writeRecord ts.sec ts.usec payload (s.acceptPacket idx seq)).andThen (ackCheck n)

/-- MISMATCH (R175): a warning naming received and expected, then the ACK bookkeeping with the old identifiers. -/
def mismatchPacket (seq : Half) (n : Nat) (s : State) : Flow :=
  ackCheck (if s.cfg.mismatchAccumulates then n else 0) (s.warn (.seqMismatch seq s.expectedSeqNr))

/-- The last branch of CLOSE: a decoded message that is not READY (R170, R173). -/
def takePacket (msg : Bytes) (ts : Timestamp) (s : State) : Flow :=
  let p := parsePkt msg
  if p.2.1 = s.expectedSeqNr then matchPacket p.1 p.2.1 p.2.2 msg.length ts s
  else mismatchPacket p.2.1 msg.length s

/-- CLOSE (R170): READY first (R171), then decode failure (R172), then the packet. -/
def closeRun (run : Bytes) (ts : Timestamp) (s : State) : Flow :=
  let d := deframe s.cfg.crcTable run
  let s1 := s.warnUnlessQuiet false d.2
  match d.1 with
  | .reject _ => sendNack s1
  | .ok msg _ => if msg = mkReady then .go (peerReset s1) else takePacket msg ts s1

/-! ### The rows -/

/-- CLOSE (R170). -/
def execClose (run : Bytes) (ts : Timestamp) (s : State) : Outcome State Fault Refusal := (closeRun run ts s).outcome

/-- CONNECT (R163). -/
def execConnect (s : State) : Outcome State Fault Refusal := .next (connect s)

/-- PEERRESET (R171). -/
def execPeerreset (s : State) : Outcome State Fault Refusal := .next (peerReset s)

/-- MATCH (R174). -/
def execMatchPacket (idx seq : Half) (payload : Bytes) (n : Nat) (ts : Timestamp) (s : State) :
    Outcome State Fault Refusal :=
  (matchPacket idx seq payload n ts s).outcome

/-- MISMATCH (R175). -/
def execMismatch (seq : Half) (n : Nat) (s : State) : Outcome State Fault Refusal := (mismatchPacket seq n s).outcome

/-- ACKCHECK (R176). -/
def execAckcheck (n : Nat) (s : State) : Outcome State Fault Refusal := (ackCheck n s).outcome

/-- SENDACK (R178). -/
def execSendack (s : State) : Outcome State Fault Refusal := (sendAck s).outcome

/-- SENDNACK (R179). -/
def execSendnack (s : State) : Outcome State Fault Refusal := (sendNack s).outcome

/-- WRITE_RECORD (R213). -/
def execWriteRecord (sec usec : Long) (payload : Bytes) (s : State) : Outcome State Fault Refusal :=
  (writeRecord sec usec payload s).outcome

/-- FatalIO (R245). -/
def execFatalIO (chan : Chan) (s : State) : Outcome State Fault Refusal := .next (fatalIO chan s)

end Sys2Proof.Machine
end

