-- ==== Sys2Proof/Machine/Events.lean ====
section
/-! DEFINITION. The seven input events (43_link_state_machine R184, 44_capture_sink R210, 70_reset R270). One event,
one rule, one step. -/

namespace Sys2Proof.Machine

open Host (Outcome)

/-! ### Receiving a byte -/

/-- The delimiter that ends a run in the connect phase (R162): DECODE quietly; it also opens the next run, unless the
run was READY. -/
def endConnectRun (s : State) : State :=
  match (deframe s.cfg.crcTable s.rxBuf).1 with
  | .ok msg _ => if msg = mkReady then connect { s with rxBuf := [] } else { s with rxBuf := [] }
  | .reject _ => { s with rxBuf := [] }

/-- RX in the connect phase (R162): no warning, no emission. -/
def rxConnecting (b : Byte) (s : State) : Flow :=
  if b ≠ flagByte then
    if s.receiving then appendByte b s else .go s
  else if s.receiving then .go (endConnectRun s) else .go s.openFrame

/-- RX in the receive loop, outside a frame (R165, R166). -/
def rxOutside (b : Byte) (s : State) : Flow :=
  if b ≠ flagByte then .go (s.warn (.byteDropped b)) else .go s.openFrame

/-- RX in the receive loop, inside a frame (R167, R168, R169). -/
def rxInside (b : Byte) (now : Timestamp) (s : State) : Flow :=
  if b ≠ flagByte then appendByte b s
  else if s.rxBuf = [] then .go { s.warn .emptyFrame with receiving := false }
  else closeRun s.rxBuf now s.leaveFrame

/-- The RX rule by phase and flags (R184). -/
def rxRule (b : Byte) (now : Timestamp) (s : State) : Flow :=
  match s.phase with
  | .stopping => .go s
  | .connecting => rxConnecting b s
  | .connected => if s.receiving then rxInside b now s else rxOutside b s

/-- One received byte as an event (R66, R250). -/
def receiveByte (b : Byte) (now : Timestamp) (s : State) : Outcome State Fault Refusal := runEvent s (rxRule b now)

/-- Received bytes in order, one event each, the same timestamp attached to every one (`RXBYTES`, R91). -/
def receiveBytes : Bytes → Timestamp → State → Outcome State Fault Refusal
  | [], _, s => .next s
  | b :: rest, now, s =>
    match receiveByte b now s with
    | .next s1 => receiveBytes rest now s1
    | .fault f => .fault f
    | .refused r => .refused r

/-! ### The other rules -/

/-- HDR (R210): the flag is set only after the emission succeeded. -/
def hdrRule (s : State) : Flow :=
  if s.hdrWritten then .refuse .headerAlreadyWritten
  else (memWrite .sink globalHeaderBytes s).andThen fun s1 => .go s1.markHeader

/-- The register writes of START (R160). -/
def State.beginConnect (s : State) (ch : Byte) : State :=
  { s with channel := ch, receiving := false, rxBuf := [], phase := .connecting }

/-- START (R160), its checks in the rule's order. -/
def startRule (ch : Byte) (s : State) : Flow :=
  if s.hdrWritten = false then .refuse .startBeforeHeader
  else if ¬ legalChannel ch then .refuse .channelOutOfRange
  else if s.phase = .connected then .refuse .startWhileConnected
  else sendMessage (mkRst ch) (s.beginConnect ch)

/-- WINDOW (R161, R182): the RST again; a run cut by the end of the window is discarded. -/
def windowRule (s : State) : Flow :=
  match s.phase with
  | .connecting => sendMessage (mkRst s.channel) s.leaveFrame
  | .stopping => .go s
  | .connected => .go s

/-- TIMEOUT (R164, R180, R182): in the receive loop, inside a frame, the partial buffer is dropped and a NACK sent. -/
def timeoutRule (s : State) : Flow :=
  match s.phase with
  | .connected => if s.receiving then sendNack s.leaveFrame else .go s
  | .stopping => .go s
  | .connecting => .go s

/-- The register writes of STOPREQ (R181). -/
def State.endSession (s : State) : State := { s with receiving := false, rxBuf := [], phase := .stopping }

/-- STOPREQ (R181, R182): STOP is sent once. -/
def stopreqRule (s : State) : Flow :=
  match s.phase with
  | .stopping => .go s
  | .connecting => sendMessage mkStop s.endSession
  | .connected => sendMessage mkStop s.endSession

/-- RESET (R270): every field at its reset value, nothing emitted, the streams empty (R40, log 6). The constants are
unaffected (R34), and what the environment still has to supply is not the block's to reset. -/
def resetState (s : State) : State :=
  { State.reset with
    cfg := s.cfg, inputs := s.inputs, clock := s.clock, txDraws := s.txDraws, sinkDraws := s.sinkDraws }

/-! ### The rows -/

/-- RESET (R270), accepted always (R243, R250). -/
def execReset (s : State) : Outcome State Fault Refusal := .next (resetState s)

/-- HDR (R210). -/
def execHdr (s : State) : Outcome State Fault Refusal := runEvent s hdrRule

/-- START (R160). -/
def execStart (ch : Byte) (s : State) : Outcome State Fault Refusal := runEvent s (startRule ch)

/-- WINDOW (R161). -/
def execWindow (s : State) : Outcome State Fault Refusal := runEvent s windowRule

/-- RX (R162, R165 to R169, R182). -/
def execRx (b : Byte) (now : Timestamp) (s : State) : Outcome State Fault Refusal := receiveByte b now s

/-- TIMEOUT (R164, R180, R182). -/
def execTimeout (s : State) : Outcome State Fault Refusal := runEvent s timeoutRule

/-- STOPREQ (R181, R182). -/
def execStopreq (s : State) : Outcome State Fault Refusal := runEvent s stopreqRule

end Sys2Proof.Machine
end

