-- ==== Sys2Proof/Machine/CodedRows.lean ====
section
/-! DEFINITION. The rows of the opcode table that are byte patterns (30_encoding R70 to R83). Bytes that come to the
block (wire symbols, the frame, the messages of the peer) are received, one RX event a byte, as the pseudo-operations
RXBYTES, RXFRAME, RXREADY and RXPKT of R91 expand, each with the timestamp draw `clock`. Bytes the block sends (its
messages, R79; the capture headers) are emitted on their stream. Both are refused while `fatal = 1`, since then no
event runs (R250). Logs 9 and 10. -/

namespace Sys2Proof.Machine

open Host (Outcome)

/-- The frame of a message arrives (`RXFRAME`, R91). -/
def receiveFrame (m : Bytes) (s : State) : Outcome State Fault Refusal :=
  receiveBytes (encodeFrame s.cfg.crcTable m) s.clock s

/-- FLAG (R70): the byte 7E arrives. -/
def execFlag (s : State) : Outcome State Fault Refusal := receiveByte flagByte s.clock s

/-- ESC (R71): the byte 7D arrives. -/
def execEsc (s : State) : Outcome State Fault Refusal := receiveByte escByte s.clock s

/-- ESC_FLAG (R120): the pair 7D 5E arrives. -/
def execEscFlag (s : State) : Outcome State Fault Refusal := receiveBytes [escByte, 0x5E] s.clock s

/-- ESC_ESC (R120): the pair 7D 5D arrives. -/
def execEscEsc (s : State) : Outcome State Fault Refusal := receiveBytes [escByte, 0x5D] s.clock s

/-- ESC_ANY (R143): the pair 7D xx arrives. -/
def execEscAny (x : Byte) (s : State) : Outcome State Fault Refusal := receiveBytes [escByte, x] s.clock s

/-- FRAME (R70): the frame of a message arrives (RXFRAME). -/
def execFrame (m : Bytes) (s : State) : Outcome State Fault Refusal := receiveFrame m s

/-- RST (R74): the block sends its frame (R79, R125). -/
def execRst (ch : Byte) (s : State) : Outcome State Fault Refusal := runEvent s (sendMessage (mkRst ch))

/-- READY (R75): its frame arrives (RXREADY). -/
def execReady (s : State) : Outcome State Fault Refusal := receiveFrame mkReady s

/-- ACK (R76): the block sends its frame (R79, R125). -/
def execAck (idx seq : Half) (s : State) : Outcome State Fault Refusal := runEvent s (sendMessage (mkAck idx seq))

/-- NACK (R77): the block sends its frame (R79, R125). -/
def execNack (idx seq : Half) (s : State) : Outcome State Fault Refusal := runEvent s (sendMessage (mkNack idx seq))

/-- STOP (R78): the block sends its frame (R79, R125). -/
def execStop (s : State) : Outcome State Fault Refusal := runEvent s (sendMessage mkStop)

/-- PACKET (R80): its frame arrives (RXPKT). -/
def execPacket (idx seq : Half) (payload : Bytes) (s : State) : Outcome State Fault Refusal :=
  receiveFrame (packetBytes idx seq payload) s

/-- GLOBAL_HEADER (R82): its 24 bytes go to SINK as one emission. -/
def execGlobalHeader (s : State) : Outcome State Fault Refusal := runEvent s (memWrite .sink globalHeaderBytes)

/-- A record in coded form goes to SINK; one longer than its length fields can say is refused (R83, R214). -/
def emitRecord (sec usec : Long) (payload : Bytes) (s : State) : Flow :=
  if maxPayload < payload.length then .refuse .payloadTooLong
  else memWrite .sink (recordBytes sec usec payload) s

/-- RECORD_HEADER (R83): the header and the payload that follows it at once go to SINK as one emission. -/
def execRecordHeader (sec usec : Long) (payload : Bytes) (s : State) : Outcome State Fault Refusal :=
  runEvent s (emitRecord sec usec payload)

end Sys2Proof.Machine
end

