-- ==== Sys2Proof/Machine/PureOps.lean ====
section
/-! DEFINITION. The pure operations of R89 as rows: each computes its value from its operands and the table and
touches no architectural state; the model keeps the value in `result` (log 7). They are no events, so `fatal` does not
stop them. -/

namespace Sys2Proof.Machine

open Host (Outcome)

/-- CRCSTEP (R101). -/
def execCrcstep (crc : Half) (b : Byte) (s : State) : Outcome State Fault Refusal :=
  .next (s.setResult (.half (crcStep s.cfg.crcTable crc b)))

/-- CRC16 (R102). -/
def execCrc16 (bytes : Bytes) (s : State) : Outcome State Fault Refusal :=
  .next (s.setResult (.half (crc16 s.cfg.crcTable bytes)))

/-- STUFF (R120). -/
def execStuff (b : Byte) (s : State) : Outcome State Fault Refusal := .next (s.setResult (.bytes (stuff b)))

/-- STUFFSEQ (R121). -/
def execStuffseq (m : Bytes) (s : State) : Outcome State Fault Refusal := .next (s.setResult (.bytes (stuffSeq m)))

/-- ENCODE (R122). -/
def execEncode (m : Bytes) (s : State) : Outcome State Fault Refusal :=
  .next (s.setResult (.bytes (encodeFrame s.cfg.crcTable m)))

/-- MKRST (R126); outside 11..26 the value is free (log 12). -/
def execMkrst (ch : Byte) (s : State) : Outcome State Fault Refusal := .next (s.setResult (.bytes (mkRst ch)))

/-- MKACK (R127). -/
def execMkack (idx seq : Half) (s : State) : Outcome State Fault Refusal := .next (s.setResult (.bytes (mkAck idx seq)))

/-- MKNACK (R128). -/
def execMknack (idx seq : Half) (s : State) : Outcome State Fault Refusal :=
  .next (s.setResult (.bytes (mkNack idx seq)))

/-- MKSTOP (R129). -/
def execMkstop (s : State) : Outcome State Fault Refusal := .next (s.setResult (.bytes mkStop))

/-- MKREADY (R130). -/
def execMkready (s : State) : Outcome State Fault Refusal := .next (s.setResult (.bytes mkReady))

/-- MKPACKET (R131); for an empty payload the value is free (log 14). -/
def execMkpacket (idx seq : Half) (payload : Bytes) (s : State) : Outcome State Fault Refusal :=
  .next (s.setResult (.bytes (mkPacket idx seq payload)))

/-- UNSTUFF (R141). -/
def execUnstuff (run : Bytes) (s : State) : Outcome State Fault Refusal :=
  .next (s.setResult (.unstuffed (unstuff run)))

/-- DECODE (R144): the result, and the warning unless quiet (R149). -/
def execDecode (run : Bytes) (quiet : Bool) (s : State) : Outcome State Fault Refusal :=
  let d := deframe s.cfg.crcTable run
  .next ((s.warnUnlessQuiet quiet d.2).setResult (.decoded d.1))

/-- PARSEPKT (R173); for fewer than 5 bytes the value is free (log 13). -/
def execParsepkt (msg : Bytes) (s : State) : Outcome State Fault Refusal :=
  let p := parsePkt msg
  .next (s.setResult (.packet p.1 p.2.1 p.2.2))

/-- SEQNEXT (R177). -/
def execSeqnext (n : Half) (s : State) : Outcome State Fault Refusal := .next (s.setResult (.half (seqNext n)))

/-- GLOBALHEADER (R211). -/
def execGlobalheader (s : State) : Outcome State Fault Refusal := .next (s.setResult (.bytes globalHeaderBytes))

/-- RECORD (R212); a payload longer than 65535 bytes is refused (R214), and for an empty one the value is free (log 14). -/
def execRecord (sec usec : Long) (payload : Bytes) (s : State) : Outcome State Fault Refusal :=
  if maxPayload < payload.length then .refused .payloadTooLong
  else .next (s.setResult (.bytes (recordOf sec usec payload)))

end Sys2Proof.Machine
end

