-- ==== Sys2Proof/Machine/Dispatch.lean ====
section
/-! DEFINITION. One arm per row of spec/opcode_table.json (30_encoding R89, 43_link_state_machine R184). -/

namespace Sys2Proof.Machine

open Host (Outcome)

def exec (i : Instr) (s : State) : Host.Outcome State Fault Refusal :=
  match i with
  -- pure operations
  | .crcstep crc b => Sys2Proof.Machine.execCrcstep crc b s
  | .crc16 bytes => Sys2Proof.Machine.execCrc16 bytes s
  | .stuff b => Sys2Proof.Machine.execStuff b s
  | .stuffseq m => Sys2Proof.Machine.execStuffseq m s
  | .encode m => Sys2Proof.Machine.execEncode m s
  | .mkrst ch => Sys2Proof.Machine.execMkrst ch s
  | .mkack idx seq => Sys2Proof.Machine.execMkack idx seq s
  | .mknack idx seq => Sys2Proof.Machine.execMknack idx seq s
  | .mkstop => Sys2Proof.Machine.execMkstop s
  | .mkready => Sys2Proof.Machine.execMkready s
  | .mkpacket idx seq payload => Sys2Proof.Machine.execMkpacket idx seq payload s
  | .unstuff run => Sys2Proof.Machine.execUnstuff run s
  | .decode run quiet => Sys2Proof.Machine.execDecode run quiet s
  | .parsepkt msg => Sys2Proof.Machine.execParsepkt msg s
  | .seqnext n => Sys2Proof.Machine.execSeqnext n s
  | .globalheader => Sys2Proof.Machine.execGlobalheader s
  | .record sec usec payload => Sys2Proof.Machine.execRecord sec usec payload s
  -- internal procedures
  | .close run ts => Sys2Proof.Machine.execClose run ts s
  | .connect => Sys2Proof.Machine.execConnect s
  | .peerreset => Sys2Proof.Machine.execPeerreset s
  | .matchPacket idx seq payload n ts => Sys2Proof.Machine.execMatchPacket idx seq payload n ts s
  | .mismatch seq n => Sys2Proof.Machine.execMismatch seq n s
  | .ackcheck n => Sys2Proof.Machine.execAckcheck n s
  | .sendack => Sys2Proof.Machine.execSendack s
  | .sendnack => Sys2Proof.Machine.execSendnack s
  | .writeRecord sec usec payload => Sys2Proof.Machine.execWriteRecord sec usec payload s
  | .fatalIO chan => Sys2Proof.Machine.execFatalIO chan s
  -- events
  | .reset => Sys2Proof.Machine.execReset s
  | .hdr => Sys2Proof.Machine.execHdr s
  | .start ch => Sys2Proof.Machine.execStart ch s
  | .window => Sys2Proof.Machine.execWindow s
  | .rx b now => Sys2Proof.Machine.execRx b now s
  | .timeout => Sys2Proof.Machine.execTimeout s
  | .stopreq => Sys2Proof.Machine.execStopreq s
  -- wire symbols and the frame
  | .flag => Sys2Proof.Machine.execFlag s
  | .esc => Sys2Proof.Machine.execEsc s
  | .escFlag => Sys2Proof.Machine.execEscFlag s
  | .escEsc => Sys2Proof.Machine.execEscEsc s
  | .escAny x => Sys2Proof.Machine.execEscAny x s
  | .frame m => Sys2Proof.Machine.execFrame m s
  -- messages
  | .rst ch => Sys2Proof.Machine.execRst ch s
  | .ready => Sys2Proof.Machine.execReady s
  | .ack idx seq => Sys2Proof.Machine.execAck idx seq s
  | .nack idx seq => Sys2Proof.Machine.execNack idx seq s
  | .stop => Sys2Proof.Machine.execStop s
  | .packet idx seq payload => Sys2Proof.Machine.execPacket idx seq payload s
  -- capture stream
  | .globalHeader => Sys2Proof.Machine.execGlobalHeader s
  | .recordHeader sec usec payload => Sys2Proof.Machine.execRecordHeader sec usec payload s

end Sys2Proof.Machine
end

