-- ==== Sys2Proof/Machine/Fetch.lean ====
section
/-! DEFINITION. Taking the next input of the trace (R6, R36, R59: one event, one rule, one step), running what it brings,
and the placing of a table word as the next input. -/

namespace Sys2Proof.Machine

/-- What the next input asks the machine to do. -/
inductive Fetched where
  /-- No input is pending: the block waits (R66). -/
  | idle
  /-- Run this row in this state, the input taken and its draws in place. -/
  | run (i : Instr) (s : State)
  /-- Bytes that are no row of the table arrive one by one (R86). -/
  | receive (bytes : Bytes) (s : State)
  deriving DecidableEq, Repr

/-- Take an input: it leaves the trace, and its draws become the draws of this step (R8, R62, R66). -/
def State.takeInput (s : State) (x : Input) (rest : List Input) : State :=
  { s with inputs := rest, clock := x.clock, txDraws := x.txDraws, sinkDraws := x.sinkDraws }

/-- Raw bytes of the line: the row they are, or else bytes with no name of their own, which have their effect all the same
(R86: "every byte sequence on RX has a defined effect"). -/
def fetchWire (bytes : Bytes) (s : State) : Fetched :=
  match decode s.cfg.crcTable .wire bytes with
  | .row i => .run i s
  | .error _ => .receive bytes s

/-- A message of the peer: READY or a packet, or else the frame of a message too short to be either (R84, R86, R145). -/
def fetchMessage (msg : Bytes) (s : State) : Fetched :=
  match decode s.cfg.crcTable .fromPeer msg with
  | .row i => .run i s
  | .error _ => .run (.frame msg) s

/-- What an input brings, in the state that has taken it. -/
def fetchRequest (r : Request) (s : State) : Fetched :=
  match r with
  | .instr i => .run i s
  | .wire bytes => fetchWire bytes s
  | .message msg => fetchMessage msg s

/-- The next input of the trace, decoded where it comes as bytes. -/
def fetch (s : State) : Fetched :=
  match s.inputs with
  | [] => .idle
  | x :: rest => fetchRequest x.request (s.takeInput x rest)

/-- Run what was fetched; with no input pending the block waits and nothing changes (log 3). -/
def runFetched (s : State) : Fetched → Host.Outcome State Fault Refusal
  | .idle => .next s
  | .run i s1 => exec i s1
  | .receive bytes s1 => receiveBytes bytes s1.clock s1

/-- How a row read from a table word is supplied: bytes of the line and messages of the peer as such, decoded again by the
step that takes them; what the block itself sends is never an input of the line, so its row is given (log 3). -/
def placedRequest (sp : Space) (bytes : Bytes) (i : Instr) : Request :=
  match sp with
  | .wire => .wire bytes
  | .fromPeer => .message bytes
  | .toPeer | .capture | .trace => .instr i

/-- The input that stands for a table word: what it reads as, or its bytes arriving on the line where it is no row, with the
draws the state holds, so that taking it leaves them as they are. -/
def tableInput (s : State) (nbits w : Nat) : Input :=
  let req : Request :=
    match readTableWord s.cfg.crcTable nbits w with
    | some (sp, bytes, i) => placedRequest sp bytes i
    | none => .wire (bigEndian (nbits / 8) w)
  { request := req, clock := s.clock, txDraws := s.txDraws, sinkDraws := s.sinkDraws }

/-- Place a table word before every pending input. -/
def placeTableWord (s : State) (nbits w : Nat) : State := { s with inputs := tableInput s nbits w :: s.inputs }

end Sys2Proof.Machine
end

