-- ==== Sys2Proof/Machine/Trace.lean ====
section
/-! DEFINITION. Traces (30_encoding R90, R91): the block's programs. A line with its failure mark becomes one input;
the pseudo-operations expand to lists of RX inputs. -/

namespace Sys2Proof.Machine

/-- An input with every write `ok` (R90: "Write statuses are ok unless ..."). DESIGN CHOICE (logs 5 and 19): its draw for bytes
in coded form is (0, 0), which an event given as a row never uses. -/
def okInput (i : Instr) : Input := ⟨.instr i, ⟨0, 0⟩, [], []⟩

/-- ` !fail(TX)` in ASCII (R90). -/
def markFailTx : Bytes := [0x20, 0x21, 0x66, 0x61, 0x69, 0x6C, 0x28, 0x54, 0x58, 0x29]
/-- ` !fail(SINK)` in ASCII (R90). -/
def markFailSink : Bytes := [0x20, 0x21, 0x66, 0x61, 0x69, 0x6C, 0x28, 0x53, 0x49, 0x4E, 0x4B, 0x29]

/-- The bytes before a mark, if `bs` ends with it. -/
def beforeMark (mark bs : Bytes) : Option Bytes :=
  if bs.drop (bs.length - mark.length) = mark then some (bs.take (bs.length - mark.length)) else none

/-- An input from a line's event, with the first emission on the marked streams failing (R90). -/
def lineInput (bs : Bytes) (txDraws sinkDraws : List WriteStatus) : Option Input :=
  match decodeTrace bs with
  | .row i => some ⟨.instr i, ⟨0, 0⟩, txDraws, sinkDraws⟩
  | .error _ => none

/-- One line of a trace (R90): an event, and a mark that makes the first emission of that step on that stream fail. -/
def readLine (bs : Bytes) : Option Input :=
  match beforeMark markFailTx bs with
  | some line => lineInput line [.fail] []
  | none =>
    match beforeMark markFailSink bs with
    | some line => lineInput line [] [.fail]
    | none => lineInput bs [] []

/-- `RXBYTES b0 ... bk @ t` (R91). -/
def rxBytes (bs : Bytes) (t : Timestamp) : List Input := bs.map fun b => okInput (.rx b t)

/-- `RXFRAME <msg> @ t` (R91). -/
def rxFrame (tab : CrcTable) (msg : Bytes) (t : Timestamp) : List Input := rxBytes (encodeFrame tab msg) t

/-- `RXREADY` (R91), which carries no timestamp: every byte has the omitted one (DESIGN CHOICE, log 19). -/
def rxReady (tab : CrcTable) : List Input := rxFrame tab mkReady omittedStamp

/-- `RXPKT <idx> <seq> <payload> @ t` (R91). -/
def rxPkt (tab : CrcTable) (idx seq : Half) (payload : Bytes) (t : Timestamp) : List Input :=
  rxFrame tab (mkPacket idx seq payload) t

/-- `RXRUN <raw bytes> @ t` (R91): the run given raw, already stuffed, possibly invalid. R91 writes `@ t` on the closing delimiter
only; that the opening delimiter and the raw bytes carry the omitted timestamp is a DESIGN CHOICE (log 19). -/
def rxRun (raw : Bytes) (t : Timestamp) : List Input :=
  rxBytes ([flagByte] ++ raw) omittedStamp ++ [okInput (.rx flagByte t)]

end Sys2Proof.Machine
end

