-- ==== Sys2Proof/Safety.lean ====
section
/-! DEFINITION. What counts as a safe run: the invariants of 10_state R39, the shape of the TX stream (R79, R125) and of
the capture stream (R217), and the inputs the environment of the hardware can deliver (R243). -/

namespace Sys2Proof.Machine

/-- The invariants of R39, clause by clause, with the channel's range while a session is active (R22, R160). -/
structure SessionInv (s : State) : Prop where
  /-- (a) outside a frame the buffer is empty. -/
  emptyOutside : s.receiving = false → s.rxBuf = []
  /-- (b) the buffer never holds the delimiter. -/
  noDelimiter : flagByte ∉ s.rxBuf
  /-- (c) while connected, 0 is never expected; 65535 is the register's own bound. -/
  neverExpectsZero : s.phase = .connected → s.expectedSeqNr ≠ 0
  /-- (d) no packet accepted since the last connect: the index is 0 and the first number is expected. -/
  freshSession : s.phase = .connected → s.lastSeqNr = 0 → s.lastIndex = 0 ∧ s.expectedSeqNr = 1
  /-- (e) the expected number is the successor of the last accepted one. -/
  expectsSuccessor : s.phase = .connected → s.lastSeqNr ≠ 0 → s.expectedSeqNr = seqNext s.lastSeqNr
  /-- (f) no session before the global header. -/
  headerFirst : s.phase ≠ .stopping → s.hdrWritten = true
  /-- (g) a latched fatal error stops the session. -/
  fatalStops : s.fatal = true → s.phase = .stopping
  /-- (h) the idle phase is outside a frame. -/
  idleOutside : s.phase = .stopping → s.receiving = false
  /-- While a session is active the channel is legal (from R160, which refuses any other). -/
  channelLegal : s.phase ≠ .stopping → legalChannel s.channel

/-- An input the environment of the hardware can deliver: an event, or received bytes, in coded form too (R243). -/
def Input.deliverable (x : Input) : Prop :=
  match x.request with
  | .instr i => i.deliverable
  | .wire _ => True
  | .message _ => True

/-- Every pending input is one the environment can deliver. -/
def State.traceDeliverable (s : State) : Prop := ∀ x ∈ s.inputs, x.deliverable

/-- The emissions of one stream, failed ones among them, oldest first. -/
def State.emissions (s : State) (c : Chan) : List (Bytes × WriteStatus) :=
  s.outputs.filterMap fun o =>
    match o with
    | .emission d bytes st => if d = c then some (bytes, st) else none
    | .warn _ => none
    | .signal _ => none

/-- The emissions of one stream that succeeded: what the stream holds for certain (R62, U11). -/
def State.written (s : State) (c : Chan) : List Bytes :=
  ((s.emissions c).filter fun e => e.2 = .ok).map (·.1)

/-- A message the block may send (R79): RST with a legal channel, ACK, NACK or STOP. -/
inductive OutboundMessage : Bytes → Prop where
  | rst (ch : Byte) (h : legalChannel ch) : OutboundMessage (mkRst ch)
  | ack (idx seq : Half) : OutboundMessage (mkAck idx seq)
  | nack (idx seq : Half) : OutboundMessage (mkNack idx seq)
  | stop : OutboundMessage mkStop

/-- Every TX emission is the frame of an outbound message (R79, R125). -/
def TxStreamInv (s : State) : Prop :=
  ∀ e ∈ s.emissions .tx, ∃ m, OutboundMessage m ∧ e.1 = encodeFrame s.cfg.crcTable m

/-- The record of some accepted packet: a payload of 1 to 65535 bytes (R212, R214). -/
def IsRecord (bytes : Bytes) : Prop :=
  ∃ sec usec payload, recordablePayload payload = true ∧ bytes = recordBytes sec usec payload

/-- The capture stream (R217): nothing before the global header, then the header once, then records only. -/
def CaptureStreamInv (s : State) : Prop :=
  if s.hdrWritten then ∃ records, s.written .sink = globalHeaderBytes :: records ∧ ∀ r ∈ records, IsRecord r
  else s.written .sink = []

/-- What R250 says of a refused event, reason by reason. -/
inductive RefusedByR250 (i : Instr) (s : State) : Refusal → Prop where
  | eventWhileFatal (hf : s.fatal = true) (hi : i ≠ .reset) : RefusedByR250 i s .eventWhileFatal
  | startBeforeHeader (ch : Byte) (hi : i = .start ch) (hh : s.hdrWritten = false) : RefusedByR250 i s .startBeforeHeader
  | channelOutOfRange (ch : Byte) (hi : i = .start ch) (hc : ch.toNat < 11 ∨ 26 < ch.toNat) :
    RefusedByR250 i s .channelOutOfRange
  | startWhileConnected (ch : Byte) (hi : i = .start ch) (hp : s.phase = .connected) : RefusedByR250 i s .startWhileConnected
  | headerAlreadyWritten (hi : i = .hdr) (hh : s.hdrWritten = true) : RefusedByR250 i s .headerAlreadyWritten
  | bufferOverflow (b : Byte) (now : Timestamp) (k : Nat) (hi : i = .rx b now) (hb : b ≠ 0x7E) (hp : s.phase ≠ .stopping)
    (hr : s.receiving = true) (hk : s.cfg.bufMax = some k) (hl : k < s.rxBuf.length + 1) :
    RefusedByR250 i s .bufferOverflow
  | payloadTooLong (now : Timestamp) (msg : Bytes) (crc : Half) (hi : i = .rx 0x7E now) (hp : s.phase = .connected)
    (hr : s.receiving = true) (hd : (deframe s.cfg.crcTable s.rxBuf).1 = .ok msg crc)
    (hs : (parsePkt msg).2.1 = s.expectedSeqNr) (hl : 65535 < (parsePkt msg).2.2.length) :
    RefusedByR250 i s .payloadTooLong

end Sys2Proof.Machine
end

