-- ==== Sys2Proof/Certificates/Slice0/Obligations.lean ====
section
/-! DEFINITION. What is stated about the machine. Byte values, field positions and thresholds are written out here from
the spec's rules, so that a wrong constant of the model makes a statement false. An equation `exec i s = .next …` says the
whole frame at once: every field not named after `with` is unchanged. "No draw left or an `ok` draw" is
`headD .ok = .ok` on the stream's draws (R62, R90). -/

open Sys2Proof Sys2Proof.Machine
open Host (Outcome)

/-! ### Encoding -/

/-- Decoding the bytes of a well-formed row, in the space its format belongs to, gives the row back, with every operand at
every value: the events as trace lines (R90), the wire symbols and the frame for every CRC table (R70, R71), the messages (R74
to R80) and the capture headers (R82, R83). The reading of bytes by space is the model's (log 11). -/
def Obligations.WellFormedRowsDecodeToThemselves : Prop :=
  ∀ (t : CrcTable) (i : Instr) (sp : Space) (bs : Bytes),
    i.wf = true → encode t i = some (sp, bs) → decode t sp bs = .row i

/-- A byte string that is a row in a binary space is exactly that row's encoding: no second byte string means the same row.
The spaces are the model's (log 11). -/
def Obligations.DecodedBytesEncodeBack : Prop :=
  ∀ (t : CrcTable) (sp : Space) (bs : Bytes) (i : Instr),
    sp ≠ .trace → decode t sp bs = .row i → encode t i = some (sp, bs)

/-- Words written out from the formats of 30_encoding decode to the rows they stand for. The spaces are the model's (log 11).
-/
def Obligations.SampleWordsDecode : Prop :=
  ∀ t : CrcTable,
    decode t .wire [0x7E] = .row .flag ∧ decode t .wire [0x7D, 0x5E] = .row .escFlag ∧
    decode t .wire [0x7D, 0x41] = .row (.escAny 0x41) ∧
    decode t .wire [0x7D, 0x7E] = .error .delimiterInEscapePair ∧
    decode t .toPeer [0x52, 0x53, 0x54, 0x0B] = .row (.rst 11) ∧
    decode t .toPeer [0x41, 0x43, 0x4B, 0x00, 0x03, 0x01, 0x09] = .row (.ack 3 265) ∧
    decode t .toPeer [0x4E, 0x41, 0x43, 0x4B, 0x00, 0x03, 0x01, 0x09] = .row (.nack 3 265) ∧
    decode t .toPeer [0x53, 0x54, 0x4F, 0x50] = .row .stop ∧
    decode t .fromPeer [0x52, 0x45, 0x41, 0x44, 0x59] = .row .ready ∧
    decode t .fromPeer [0x41, 0x43, 0x4B, 0x00, 0x03] = .row (.packet 0x4143 0x4B00 [0x03]) ∧
    decode t .trace [0x53, 0x54, 0x41, 0x52, 0x54, 0x20, 0x31, 0x31] = .row (.start 11)

/-- A step takes the next input, puts its draws in place and runs its row: the decoded one where the input comes as bytes of
the line or as a message of the peer, the given one otherwise. A trace line that decodes to an event becomes the input of that
event, with the first write on the marked stream failing (R90). The list of inputs is the model's (log 3). -/
def Obligations.StepRunsTheDecodedRow : Prop :=
  (∀ (s : State) (x : Input) (rest : List Input) (i : Instr), s.inputs = x :: rest →
    (x.request = .instr i ∨ (∃ bs, x.request = .wire bs ∧ decode s.cfg.crcTable .wire bs = .row i) ∨
      (∃ msg, x.request = .message msg ∧ decode s.cfg.crcTable .fromPeer msg = .row i)) →
    step s = exec i { s with inputs := rest, clock := x.clock, txDraws := x.txDraws, sinkDraws := x.sinkDraws }) ∧
  (∀ (t : CrcTable) (line : Bytes) (i : Instr), decode t .trace line = .row i →
    readLine line = some ⟨.instr i, ⟨0, 0⟩, [], []⟩ ∧
    readLine (line ++ [0x20, 0x21, 0x66, 0x61, 0x69, 0x6C, 0x28, 0x54, 0x58, 0x29]) = some ⟨.instr i, ⟨0, 0⟩, [.fail], []⟩ ∧
    readLine (line ++ [0x20, 0x21, 0x66, 0x61, 0x69, 0x6C, 0x28, 0x53, 0x49, 0x4E, 0x4B, 0x29]) =
      some ⟨.instr i, ⟨0, 0⟩, [], [.fail]⟩)

/-- R86: every byte sequence on the line has an effect, whether it is a row of the table or not: its bytes are RX events, one
after the other until one is refused. A message of the peer is its frame received, one too short to be a row too. With no
input pending a step changes nothing. The coded inputs and the waiting step are the model's (logs 3, 10 and 16). -/
def Obligations.StepReceivesEveryByteString : Prop :=
  (∀ s : State,
    (s.inputs = [] → step s = .next s) ∧
    (∀ (x : Input) (rest : List Input) (bs : Bytes), s.inputs = x :: rest → x.request = .wire bs →
      step s = receiveBytes bs x.clock
        { s with inputs := rest, clock := x.clock, txDraws := x.txDraws, sinkDraws := x.sinkDraws }) ∧
    (∀ (x : Input) (rest : List Input) (msg : Bytes), s.inputs = x :: rest → x.request = .message msg →
      step s = receiveBytes (encodeFrame s.cfg.crcTable msg) x.clock
        { s with inputs := rest, clock := x.clock, txDraws := x.txDraws, sinkDraws := x.sinkDraws })) ∧
  (∀ (s : State) (now : Timestamp) (b : Byte) (rest : Bytes),
    receiveBytes [] now s = .next s ∧
    (∀ t : State, exec (.rx b now) s = .next t → receiveBytes (b :: rest) now s = receiveBytes rest now t) ∧
    (∀ r : Refusal, exec (.rx b now) s = .refused r → receiveBytes (b :: rest) now s = .refused r))

/-- A table word placed as the next input runs, in the very next step, exactly the row it reads as. How a table word is laid
down and supplied is the model's (logs 3 and 11). -/
def Obligations.PlacedTableWordRuns : Prop :=
  ∀ (s : State) (nbits w : Nat) (sp : Space) (bs : Bytes) (i : Instr),
    readTableWord s.cfg.crcTable nbits w = some (sp, bs, i) → step (s.withFetchWord nbits w) = exec i s

/-! ### Checksum -/

/-- CRCSTEP (R101): `table[(crc >> 8 & 0xFF) ^ b] ^ ((crc << 8) & 0xFFFF)`, in arithmetic on numbers, for every table. -/
def Obligations.CrcStepReadsTheTable : Prop :=
  ∀ (crc : Half) (b : Byte) (s : State),
    exec (.crcstep crc b) s = .next { s with
      result := .half
        (s.cfg.crcTable.toList.getD ((crc.toNat / 256) ^^^ b.toNat) 0 ^^^ BitVec.ofNat 16 (crc.toNat * 256)) }

/-- CRC16 (R102, R103): seed 0xFFFF, one CRCSTEP a byte from the first to the last, nothing applied at the end. -/
def Obligations.Crc16FoldsCrcStep : Prop :=
  ∀ (s : State) (m : Bytes) (b : Byte),
    exec (.crc16 []) s = .next { s with result := .half 0xFFFF } ∧
    (∃ c d : Half, exec (.crc16 m) s = .next { s with result := .half c } ∧
      exec (.crc16 (m ++ [b])) s = .next { s with result := .half d } ∧
      exec (.crcstep c b) s = .next { s with result := .half d })

/-- The default table is the one R106 generates, and has the residue property of R108. Both are the spec's general
knowledge, used at reset only (PRESUMED, log 1). -/
def Obligations.DefaultTableResidueIsZero : Prop :=
  (∀ i : Byte, readTable defaultCrcTable i = crcPolyEntry i) ∧
  (∀ m : Bytes, crc16 defaultCrcTable (m ++ [hi8 (crc16 defaultCrcTable m), lo8 (crc16 defaultCrcTable m)]) = 0)

/-! ### Framer -/

/-- STUFF (R120): 7E becomes 7D 5E, 7D becomes 7D 5D, every other byte stands. -/
def Obligations.StuffEscapesTwoBytes : Prop :=
  ∀ (b : Byte) (s : State),
    exec (.stuff b) s = .next { s with
      result := .bytes
        (if b = 0x7E then [0x7D, 0x5E] else if b = 0x7D then [0x7D, 0x5D] else [b]) }

/-- STUFFSEQ (R121): the concatenation of the stuffed bytes, between once and twice as long. The spec marks R121 as its own
inference ("derived: from rule R120"). -/
def Obligations.StuffSeqConcatenates : Prop :=
  ∀ (m : Bytes) (s : State), ∃ r : Bytes,
    exec (.stuffseq m) s = .next { s with result := .bytes r } ∧
    r = m.flatMap (fun b => if b = 0x7E then [0x7D, 0x5E] else if b = 0x7D then [0x7D, 0x5D] else [b]) ∧
    m.length ≤ r.length ∧ r.length ≤ 2 * m.length

/-- ENCODE (R122): delimiter, stuffed message, stuffed CRC of the unescaped message high byte first, delimiter. -/
def Obligations.EncodeBuildsTheFrame : Prop :=
  ∀ (m : Bytes) (s : State),
    exec (.encode m) s = .next { s with
      result := .bytes
        ([0x7E] ++ m.flatMap stuff ++ stuff (BitVec.ofNat 8 ((crc16 s.cfg.crcTable m).toNat / 256)) ++
          stuff (BitVec.ofNat 8 ((crc16 s.cfg.crcTable m).toNat % 256)) ++ [0x7E]) }

/-- R123: a frame begins and ends with 7E and has none between, and every 7D between is followed by 5E or 5D. For a message
without a reserved byte the spec infers it ("derived: from rule R120, whose result never contains 7E"). -/
def Obligations.FrameHasDelimitersOnlyAtItsEnds : Prop :=
  ∀ (t : CrcTable) (m : Bytes), ∃ body : Bytes, encodeFrame t m = [0x7E] ++ body ++ [0x7E] ∧ (0x7E : Byte) ∉ body ∧
    ∀ k : Nat, body[k]? = some 0x7D → body[k + 1]? = some 0x5E ∨ body[k + 1]? = some 0x5D

/-- R124: `len(m) + 4 <= len(ENCODE(m)) <= 2 * len(m) + 6`. The spec marks R124 as its own inference ("derived: from rule R121
and rule R122"). -/
def Obligations.FrameLengthBounds : Prop :=
  ∀ (t : CrcTable) (m : Bytes),
    m.length + 4 ≤ (encodeFrame t m).length ∧ (encodeFrame t m).length ≤ 2 * m.length + 6

/-- The message builders (R126 to R131) yield the bytes their formats give. -/
def Obligations.BuildersYieldTheirMessages : Prop :=
  ∀ (s : State) (i0 i1 q0 q1 ch : Byte) (payload : Bytes),
    (11 ≤ ch.toNat → ch.toNat ≤ 26 → exec (.mkrst ch) s = .next { s with result := .bytes [0x52, 0x53, 0x54, ch] }) ∧
    exec (.mkack (join16 i0 i1) (join16 q0 q1)) s = .next { s with result := .bytes [0x41, 0x43, 0x4B, i0, i1, q0, q1] } ∧
    exec (.mknack (join16 i0 i1) (join16 q0 q1)) s = .next { s with result := .bytes [0x4E, 0x41, 0x43, 0x4B, i0, i1, q0, q1] } ∧
    exec .mkstop s = .next { s with result := .bytes [0x53, 0x54, 0x4F, 0x50] } ∧
    exec .mkready s = .next { s with result := .bytes [0x52, 0x45, 0x41, 0x44, 0x59] } ∧
    (payload ≠ [] → exec (.mkpacket (join16 i0 i1) (join16 q0 q1) payload) s =
      .next { s with result := .bytes (i0 :: i1 :: q0 :: q1 :: payload) })

/-- The model's free values (logs 12, 13 and 14): MKRST outside 11..26, PARSEPKT of fewer than 5 bytes, MKPACKET and RECORD
of an empty payload run, and only their value is open. -/
def Obligations.OperandsOutsideTheDomainRun : Prop :=
  ∀ s : State,
    (∀ ch : Byte, ch.toNat < 11 ∨ 26 < ch.toNat →
      exec (.mkrst ch) s = .next { s with result := .bytes (Config.mkrstOutOfRange ch) }) ∧
    (∀ msg : Bytes, msg.length < 5 →
      exec (.parsepkt msg) s = .next { s with
        result := .packet (Config.parsepktShort msg).1
          (Config.parsepktShort msg).2.1 (Config.parsepktShort msg).2.2 }) ∧
    (∀ idx seq : Half, exec (.mkpacket idx seq []) s = .next { s with result := .bytes (Config.mkpacketEmpty idx seq) }) ∧
    (∀ sec usec : Long, exec (.record sec usec []) s = .next { s with result := .bytes (Config.recordEmpty sec usec) })

/-! ### Deframer -/

/-- UNSTUFF (R141) completes with the value its scan gives, by the equations of the scan. That a run of one 7D fails is the
dangling escape of R142, the spec's decision D14 (log 24). -/
def Obligations.UnstuffScansLeftToRight : Prop :=
  (∀ (run : Bytes) (s : State), exec (.unstuff run) s = .next { s with result := .unstuffed (unstuff run) }) ∧
  unstuff [] = some [] ∧ unstuff [0x7D] = none ∧
  (∀ (x : Byte) (rest : Bytes), unstuff (0x7D :: x :: rest) = (unstuff rest).map ((x ^^^ 0x20) :: ·)) ∧
  (∀ (b : Byte) (rest : Bytes), b ≠ 0x7D → unstuff (b :: rest) = (unstuff rest).map (b :: ·))

/-- R143: the byte after a 7D is XORed whatever it is, a second 7D among them, and un-escaping undoes stuffing. The spec marks
both as inferences ("derived: from the source's procedure, which states no check"). -/
def Obligations.UnstuffUndoesStuffing : Prop :=
  (∀ m : Bytes, unstuff (stuffSeq m) = some m) ∧
  (∀ (x : Byte) (m : Bytes), unstuff (0x7D :: x :: stuffSeq m) = some ((x ^^^ 0x20) :: m))

/-- R142: UNSTUFF fails exactly on a run whose last byte is a 7D that is not the second byte of a pair; DECODE then rejects it
with that reason, and a closed run is treated as any decode failure: a warning and a NACK. Rests on the spec's decision D14
(log 24). -/
def Obligations.DanglingEscapeIsRejected : Prop :=
  (∀ run : Bytes, unstuff run = none ↔ ∃ lead u : Bytes, run = lead ++ [0x7D] ∧ unstuff lead = some u) ∧
  (∀ (t : CrcTable) (run : Bytes), unstuff run = none → (deframe t run).1 = .reject .danglingEscape) ∧
  (∀ (s : State) (run : Bytes) (ts : Timestamp), unstuff run = none → s.txDraws.headD .ok = .ok →
    exec (.close run ts) s = .next { s with
      txDraws := s.txDraws.tail
      outputs := s.outputs ++
        [.warn .danglingEscape, .emission .tx (encodeFrame s.cfg.crcTable (mkNack s.lastIndex s.lastSeqNr)) .ok] })

/-- DECODE (R144, R145, R146, R149) in its four cases; quiet removes the warning and nothing else. The dangling escape and the
arguments of the warnings are the spec's decisions D14 and D22 (log 24). -/
def Obligations.DecodeChecksLengthThenCrc : Prop :=
  ∀ (run : Bytes) (quiet : Bool) (s : State),
    (unstuff run = none → exec (.decode run quiet) s = .next { s with
      result := .decoded (.reject .danglingEscape),
      outputs := s.outputs ++ (if quiet then [] else [.warn .danglingEscape]) }) ∧
    (∀ u : Bytes, unstuff run = some u → u.length < 7 → exec (.decode run quiet) s = .next { s with
      result := .decoded (.reject .frameTooShort),
      outputs := s.outputs ++ (if quiet then [] else [.warn (.frameTooShort u.length)]) }) ∧
    (∀ (msg : Bytes) (h l : Byte), unstuff run = some (msg ++ [h, l]) → 5 ≤ msg.length →
      (join16 h l = crc16 s.cfg.crcTable msg → exec (.decode run quiet) s = .next { s with
        result := .decoded (.ok msg (join16 h l)) }) ∧
      (join16 h l ≠ crc16 s.cfg.crcTable msg → exec (.decode run quiet) s = .next { s with
        result := .decoded (.reject .checksumFailure),
        outputs := s.outputs ++
          (if quiet then [] else [.warn (.checksumFailure (join16 h l) (crc16 s.cfg.crcTable msg))]) }))

/-- R151: a message of 5 bytes or more comes back from its frame with its checksum, for every table and quiet or not; a
shorter one is rejected as too short. The spec marks R151 as its own inference ("derived: from rule R143, rule R144 and
41_framer.md rule R122"). -/
def Obligations.DecodeOfEncodeIsTheMessage : Prop :=
  ∀ (s : State) (m : Bytes) (quiet : Bool),
    (5 ≤ m.length → exec (.decode (encodeFrame s.cfg.crcTable m).tail.dropLast quiet) s =
      .next { s with result := .decoded (.ok m (crc16 s.cfg.crcTable m)) }) ∧
    (m.length ≤ 4 → ∃ t : State, exec (.decode (encodeFrame s.cfg.crcTable m).tail.dropLast quiet) s = .next t ∧
      t.result = .decoded (.reject .frameTooShort))

/-! ### Link state machine: pure operations and procedures -/

/-- SEQNEXT (R177): the successor, 65535 followed by 1, never 0. `SEQNEXT(0) = 1` is the spec's decision D29 (log 24). -/
def Obligations.SeqNextSkipsZero : Prop :=
  ∀ (n : Half) (s : State), ∃ v : Half, exec (.seqnext n) s = .next { s with result := .half v } ∧
    v.toNat = (if n.toNat = 65535 then 1 else n.toNat + 1)

/-- PARSEPKT (R173, R81): index and sequence big-endian, payload from byte 4, at least one byte of it. -/
def Obligations.ParsePktSplitsTheHeader : Prop :=
  ∀ (s : State) (i0 i1 q0 q1 : Byte) (payload : Bytes), payload ≠ [] →
    exec (.parsepkt (i0 :: i1 :: q0 :: q1 :: payload)) s = .next { s with
      result := .packet
        (BitVec.ofNat 16 (i0.toNat * 256 + i1.toNat)) (BitVec.ofNat 16 (q0.toNat * 256 + q1.toNat)) payload }

/-- CONNECT (R163): the session registers initialised, phase Connected, nothing emitted. PEERRESET (R171): the signal, phase
Connecting, nothing else written, no frame emitted. The values beside `expectedSeqNr` and `lastSeqNr` and the silent peer
reset are the spec's decisions D5 and D15 (log 24). -/
def Obligations.ConnectAndPeerResetWriteTheirFields : Prop :=
  ∀ s : State,
    exec .connect s = .next { s with
      expectedSeqNr := 1, lastIndex := 0, lastSeqNr := 0, unackedByteCount := 0
      receiving := false, rxBuf := [], phase := .connected } ∧
    exec .peerreset s = .next { s with phase := .connecting, outputs := s.outputs ++ [.signal .peerReset] }

/-- CLOSE (R170, R172): READY first, then decode failure with its warning and SENDNACK, that is a NACK of the last good
identifiers and nothing else written, then the packet by its sequence number. -/
def Obligations.CloseDispatchesTheRun : Prop :=
  ∀ (s : State) (run : Bytes) (ts : Timestamp),
    (∀ (crc : Half) (w : Option Warning), deframe s.cfg.crcTable run = (.ok [0x52, 0x45, 0x41, 0x44, 0x59] crc, w) →
      exec (.close run ts) s = exec .peerreset s) ∧
    (∀ (r : RejectReason) (w : Warning), deframe s.cfg.crcTable run = (.reject r, some w) →
      exec (.close run ts) s = exec .sendnack { s with outputs := s.outputs ++ [.warn w] }) ∧
    (∀ (r : RejectReason) (w : Warning), deframe s.cfg.crcTable run = (.reject r, some w) →
      s.txDraws.headD .ok = .ok → exec (.close run ts) s = .next { s with
        txDraws := s.txDraws.tail
        outputs := s.outputs ++ [.warn w, .emission .tx
          (encodeFrame s.cfg.crcTable (mkNack s.lastIndex s.lastSeqNr)) .ok] }) ∧
    (∀ (i0 i1 q0 q1 : Byte) (payload : Bytes) (crc : Half) (w : Option Warning),
      deframe s.cfg.crcTable run = (.ok (i0 :: i1 :: q0 :: q1 :: payload) crc, w) →
      i0 :: i1 :: q0 :: q1 :: payload ≠ [0x52, 0x45, 0x41, 0x44, 0x59] →
      exec (.close run ts) s =
        if join16 q0 q1 = s.expectedSeqNr
        then exec (.matchPacket (join16 i0 i1) (join16 q0 q1) payload (4 + payload.length) ts) s
        else exec (.mismatch (join16 q0 q1) (4 + payload.length)) s)

/-- MATCH (R174): the registers, then the record (`recordOf`, the value of RECORD, R212), then the ACK bookkeeping: below the
threshold the count grows by the decoded length; at or above it one ACK of this packet follows the record and the count is 0.
A packet numbered 0, which no run expects, would withhold the ACK (R176). -/
def Obligations.MatchCapturesThenAcknowledges : Prop :=
  ∀ (s : State) (idx seq : Half) (payload : Bytes) (n : Nat) (ts : Timestamp),
    payload.length ≤ 65535 → s.sinkDraws.headD .ok = .ok →
    (s.unackedByteCount + n < 250 ∨ seq = 0 → exec (.matchPacket idx seq payload n ts) s = .next { s with
      expectedSeqNr := seqNext s.expectedSeqNr, lastIndex := idx, lastSeqNr := seq
      unackedByteCount := s.unackedByteCount + n
      sinkDraws := s.sinkDraws.tail
      outputs := s.outputs ++ [.emission .sink (recordOf ts.sec ts.usec payload) .ok] }) ∧
    (250 ≤ s.unackedByteCount + n → seq ≠ 0 → s.txDraws.headD .ok = .ok →
      exec (.matchPacket idx seq payload n ts) s = .next { s with
        expectedSeqNr := seqNext s.expectedSeqNr, lastIndex := idx, lastSeqNr := seq
        unackedByteCount := 0
        sinkDraws := s.sinkDraws.tail
        txDraws := s.txDraws.tail
        outputs := s.outputs ++ [.emission .sink (recordOf ts.sec ts.usec payload) .ok,
          .emission .tx (encodeFrame s.cfg.crcTable (mkAck idx seq)) .ok] })

/-- MISMATCH (R175, R282): a warning naming received and expected number, no NACK, no record; the ACK bookkeeping runs with
the previous identifiers, so a mismatched packet can make the block acknowledge the last accepted one. Whether the length is
counted is the parameter of the spec's decision D12 (logs 2 and 24). -/
def Obligations.MismatchKeepsIdentifiers : Prop :=
  ∀ (s : State) (seq : Half) (n : Nat), ∃ added : Nat,
    added = (if s.cfg.mismatchAccumulates then n else 0) ∧
    (s.unackedByteCount + added < 250 ∨ s.lastSeqNr = 0 → exec (.mismatch seq n) s = .next { s with
      unackedByteCount := s.unackedByteCount + added
      outputs := s.outputs ++ [.warn (.seqMismatch seq s.expectedSeqNr)] }) ∧
    (250 ≤ s.unackedByteCount + added → s.lastSeqNr ≠ 0 → s.txDraws.headD .ok = .ok →
      exec (.mismatch seq n) s = .next { s with
        unackedByteCount := 0
        txDraws := s.txDraws.tail
        outputs := s.outputs ++ [.warn (.seqMismatch seq s.expectedSeqNr),
          .emission .tx (encodeFrame s.cfg.crcTable (mkAck s.lastIndex s.lastSeqNr)) .ok] })

/-- ACKCHECK (R176): count; at 250 or more with `lastSeqNr != 0` one ACK and the count 0; with `lastSeqNr = 0` the ACK is
withheld and the count keeps its value. -/
def Obligations.AckCheckCountsToTheThreshold : Prop :=
  ∀ (s : State) (n : Nat),
    (s.unackedByteCount + n < 250 ∨ s.lastSeqNr = 0 →
      exec (.ackcheck n) s = .next { s with unackedByteCount := s.unackedByteCount + n }) ∧
    (250 ≤ s.unackedByteCount + n → s.lastSeqNr ≠ 0 → s.txDraws.headD .ok = .ok →
      exec (.ackcheck n) s = .next { s with
        unackedByteCount := 0
        txDraws := s.txDraws.tail
        outputs := s.outputs ++
          [.emission .tx (encodeFrame s.cfg.crcTable (mkAck s.lastIndex s.lastSeqNr)) .ok] })

/-- SENDACK and SENDNACK (R178, R179): one frame with the last good identifiers, no state written; the NACK has no guard. That
a NACK leaves the count alone is the spec's decision D13 (log 24). -/
def Obligations.AckAndNackCarryTheLastIdentifiers : Prop :=
  ∀ (s : State) (i0 i1 q0 q1 : Byte), s.lastIndex = join16 i0 i1 → s.lastSeqNr = join16 q0 q1 → s.txDraws.headD .ok = .ok →
    exec .sendack s = .next { s with
      txDraws := s.txDraws.tail
      outputs := s.outputs ++
        [.emission .tx (encodeFrame s.cfg.crcTable [0x41, 0x43, 0x4B, i0, i1, q0, q1]) .ok] } ∧
    exec .sendnack s = .next { s with
      txDraws := s.txDraws.tail
      outputs := s.outputs ++
        [.emission .tx (encodeFrame s.cfg.crcTable [0x4E, 0x41, 0x43, 0x4B, i0, i1, q0, q1]) .ok] }

/-- WRITE_RECORD (R213): one emission of the value of RECORD (`recordOf`, R212); a payload longer than 65535 bytes is refused,
the spec's decision D21 (log 24). The record of an empty payload is a free value (log 14). -/
def Obligations.WriteRecordEmitsOneRecord : Prop :=
  ∀ (s : State) (sec usec : Long) (payload : Bytes),
    (payload.length ≤ 65535 → s.sinkDraws.headD .ok = .ok → exec (.writeRecord sec usec payload) s = .next { s with
      sinkDraws := s.sinkDraws.tail
      outputs := s.outputs ++ [.emission .sink (recordOf sec usec payload) .ok] }) ∧
    (65535 < payload.length → exec (.writeRecord sec usec payload) s = .refused .payloadTooLong)

/-- GLOBALHEADER and RECORD (R211, R212): the 24 constant bytes; seconds, microseconds and twice the length, big-endian, the
top two bytes of each length zero, then the payload unchanged. -/
def Obligations.CaptureFormatsAreBigEndian : Prop :=
  ∀ (s : State) (a b c d e f g h : Byte) (payload : Bytes), payload ≠ [] → payload.length ≤ 65535 →
    exec .globalheader s = .next { s with
      result := .bytes
        [0xA1, 0xB2, 0xC3, 0xD4, 0x00, 0x02, 0x00, 0x04, 0, 0, 0, 0, 0, 0, 0, 0, 0x00, 0x00, 0xFF, 0xFF,
         0x00, 0x00, 0x00, 0xC3] } ∧
    exec (.record (join32 a b c d) (join32 e f g h) payload) s = .next { s with
      result := .bytes
        ([a, b, c, d, e, f, g, h,
          0, 0, BitVec.ofNat 8 (payload.length / 256), BitVec.ofNat 8 (payload.length % 256),
          0, 0, BitVec.ofNat 8 (payload.length / 256), BitVec.ofNat 8 (payload.length % 256)] ++ payload) }

/-! ### The fatal path -/

/-- FatalIO (R245): the signal of the failed stream; one STOP attempt on TX, its status ignored, only when the sink failed in
an active session; frame state cleared, phase Stopping, `fatal` set; the session registers as they stand. Rests on the spec's
decision D19 (log 24). -/
def Obligations.FatalIOLatches : Prop :=
  ∀ s : State,
    exec (.fatalIO .tx) s = .next { s with
      receiving := false, rxBuf := [], phase := .stopping, fatal := true,
      outputs := s.outputs ++ [.signal .txWriteFail] } ∧
    (s.phase = .stopping → exec (.fatalIO .sink) s = .next { s with
      receiving := false, rxBuf := [], fatal := true, outputs := s.outputs ++ [.signal .sinkWriteFail] }) ∧
    (s.phase ≠ .stopping → exec (.fatalIO .sink) s = .next { s with
      receiving := false, rxBuf := [], phase := .stopping, fatal := true, txDraws := s.txDraws.tail
      outputs := s.outputs ++ [.signal .sinkWriteFail,
        .emission .tx (encodeFrame s.cfg.crcTable [0x53, 0x54, 0x4F, 0x50]) (s.txDraws.headD .ok)] })

/-- R62, R245: on a `fail` status the rule is abandoned at the emission: earlier writes stand, later ones are not performed.
Every row that writes is named: HDR, START, WINDOW, TIMEOUT, STOPREQ, SENDACK, SENDNACK, ACKCHECK, the NACK of CLOSE, the
record and the ACK of MATCH, MISMATCH, WRITE_RECORD, and the emitted coded rows (log 9). For HDR in `Stopping`, START, ACKCHECK
and the record of MATCH the end state is written out, for all of them it is FatalIO of the state at the emission. Rests on the
spec's decision D19 (log 24). -/
def Obligations.FailedWriteAbandonsTheRule : Prop :=
  ∀ s : State,
    (s.fatal = false → s.hdrWritten = false → s.sinkDraws.headD .ok = .fail → s.phase = .stopping →
      exec .hdr s = .next { s with
        receiving := false, rxBuf := [], fatal := true, sinkDraws := s.sinkDraws.tail
        outputs := s.outputs ++ [.emission .sink globalHeaderBytes .fail, .signal .sinkWriteFail] }) ∧
    (∀ ch : Byte, s.fatal = false → s.hdrWritten = true → legalChannel ch → s.phase ≠ .connected →
      s.txDraws.headD .ok = .fail → exec (.start ch) s = .next { s with
        channel := ch, receiving := false, rxBuf := [], phase := .stopping, fatal := true, txDraws := s.txDraws.tail
        outputs := s.outputs ++
          [.emission .tx (encodeFrame s.cfg.crcTable [0x52, 0x53, 0x54, ch]) .fail, .signal .txWriteFail] }) ∧
    (∀ (n : Nat), 250 ≤ s.unackedByteCount + n → s.lastSeqNr ≠ 0 → s.txDraws.headD .ok = .fail →
      exec (.ackcheck n) s = .next { s with
        unackedByteCount := s.unackedByteCount + n
        receiving := false, rxBuf := [], phase := .stopping, fatal := true, txDraws := s.txDraws.tail
        outputs := s.outputs ++
          [.emission .tx (encodeFrame s.cfg.crcTable (mkAck s.lastIndex s.lastSeqNr)) .fail,
           .signal .txWriteFail] }) ∧
    (∀ (idx seq : Half) (payload : Bytes) (n : Nat) (ts : Timestamp), s.phase = .connected →
      payload.length ≤ 65535 → s.sinkDraws.headD .ok = .fail →
      exec (.matchPacket idx seq payload n ts) s = .next { s with
        expectedSeqNr := seqNext s.expectedSeqNr, lastIndex := idx, lastSeqNr := seq
        receiving := false, rxBuf := [], phase := .stopping, fatal := true
        sinkDraws := s.sinkDraws.tail, txDraws := s.txDraws.tail
        outputs := s.outputs ++ [.emission .sink (recordOf ts.sec ts.usec payload) .fail, .signal .sinkWriteFail,
          .emission .tx (encodeFrame s.cfg.crcTable [0x53, 0x54, 0x4F, 0x50]) (s.txDraws.headD .ok)] }) ∧
    (s.txDraws.headD .ok = .fail →
      (∀ ch : Byte, s.fatal = false → s.hdrWritten = true → legalChannel ch → s.phase ≠ .connected →
        exec (.start ch) s = exec (.fatalIO .tx) { s with
          channel := ch, receiving := false, rxBuf := [], phase := .connecting, txDraws := s.txDraws.tail
          outputs := s.outputs ++ [.emission .tx (encodeFrame s.cfg.crcTable [0x52, 0x53, 0x54, ch]) .fail] }) ∧
      (s.fatal = false → s.phase = .connecting → legalChannel s.channel → exec .window s = exec (.fatalIO .tx) { s with
        receiving := false, rxBuf := [], txDraws := s.txDraws.tail
        outputs := s.outputs ++ [.emission .tx (encodeFrame s.cfg.crcTable [0x52, 0x53, 0x54, s.channel]) .fail] }) ∧
      (s.fatal = false → s.phase = .connected → s.receiving = true → exec .timeout s = exec (.fatalIO .tx) { s with
        receiving := false, rxBuf := [], txDraws := s.txDraws.tail
        outputs := s.outputs ++
          [.emission .tx (encodeFrame s.cfg.crcTable (mkNack s.lastIndex s.lastSeqNr)) .fail] }) ∧
      (s.fatal = false → s.phase ≠ .stopping → exec .stopreq s = exec (.fatalIO .tx) { s with
        receiving := false, rxBuf := [], phase := .stopping, txDraws := s.txDraws.tail
        outputs := s.outputs ++ [.emission .tx (encodeFrame s.cfg.crcTable [0x53, 0x54, 0x4F, 0x50]) .fail] }) ∧
      exec .sendack s = exec (.fatalIO .tx) { s with
        txDraws := s.txDraws.tail
        outputs := s.outputs ++
          [.emission .tx (encodeFrame s.cfg.crcTable (mkAck s.lastIndex s.lastSeqNr)) .fail] } ∧
      exec .sendnack s = exec (.fatalIO .tx) { s with
        txDraws := s.txDraws.tail
        outputs := s.outputs ++
          [.emission .tx (encodeFrame s.cfg.crcTable (mkNack s.lastIndex s.lastSeqNr)) .fail] } ∧
      (∀ (run : Bytes) (ts : Timestamp) (r : RejectReason) (w : Warning),
        deframe s.cfg.crcTable run = (.reject r, some w) → exec (.close run ts) s = exec (.fatalIO .tx) { s with
          txDraws := s.txDraws.tail
          outputs := s.outputs ++ [.warn w,
            .emission .tx (encodeFrame s.cfg.crcTable (mkNack s.lastIndex s.lastSeqNr)) .fail] }) ∧
      (∀ (idx seq : Half) (payload : Bytes) (n : Nat) (ts : Timestamp), payload.length ≤ 65535 →
        s.sinkDraws.headD .ok = .ok → 250 ≤ s.unackedByteCount + n → seq ≠ 0 →
        exec (.matchPacket idx seq payload n ts) s = exec (.fatalIO .tx) { s with
          expectedSeqNr := seqNext s.expectedSeqNr, lastIndex := idx, lastSeqNr := seq
          unackedByteCount := s.unackedByteCount + n, sinkDraws := s.sinkDraws.tail, txDraws := s.txDraws.tail
          outputs := s.outputs ++ [.emission .sink (recordOf ts.sec ts.usec payload) .ok,
            .emission .tx (encodeFrame s.cfg.crcTable (mkAck idx seq)) .fail] }) ∧
      (∀ (seq : Half) (n added : Nat), added = (if s.cfg.mismatchAccumulates then n else 0) →
        250 ≤ s.unackedByteCount + added → s.lastSeqNr ≠ 0 → exec (.mismatch seq n) s = exec (.fatalIO .tx) { s with
          unackedByteCount := s.unackedByteCount + added, txDraws := s.txDraws.tail
          outputs := s.outputs ++ [.warn (.seqMismatch seq s.expectedSeqNr),
            .emission .tx (encodeFrame s.cfg.crcTable (mkAck s.lastIndex s.lastSeqNr)) .fail] }) ∧
      (∀ n : Nat, 250 ≤ s.unackedByteCount + n → s.lastSeqNr ≠ 0 → exec (.ackcheck n) s = exec (.fatalIO .tx) { s with
        unackedByteCount := s.unackedByteCount + n, txDraws := s.txDraws.tail
        outputs := s.outputs ++
          [.emission .tx (encodeFrame s.cfg.crcTable (mkAck s.lastIndex s.lastSeqNr)) .fail] }) ∧
      (∀ (i : Instr) (msg : Bytes), s.fatal = false →
        ((∃ ch, i = .rst ch ∧ msg = mkRst ch) ∨ (∃ idx seq, i = .ack idx seq ∧ msg = mkAck idx seq) ∨
          (∃ idx seq, i = .nack idx seq ∧ msg = mkNack idx seq) ∨ (i = .stop ∧ msg = mkStop)) →
        exec i s = exec (.fatalIO .tx) { s with
          txDraws := s.txDraws.tail
          outputs := s.outputs ++ [.emission .tx (encodeFrame s.cfg.crcTable msg) .fail] })) ∧
    (s.sinkDraws.headD .ok = .fail →
      (∀ (i : Instr) (bytes : Bytes), s.fatal = false →
        ((i = .hdr ∧ s.hdrWritten = false ∧ bytes = globalHeaderBytes) ∨ (i = .globalHeader ∧ bytes = globalHeaderBytes) ∨
          (∃ sec usec payload, i = .recordHeader sec usec payload ∧ payload.length ≤ 65535 ∧
            bytes = recordBytes sec usec payload)) →
        exec i s = exec (.fatalIO .sink) { s with
          sinkDraws := s.sinkDraws.tail, outputs := s.outputs ++ [.emission .sink bytes .fail] }) ∧
      (∀ (sec usec : Long) (payload : Bytes), payload.length ≤ 65535 →
        exec (.writeRecord sec usec payload) s = exec (.fatalIO .sink) { s with
          sinkDraws := s.sinkDraws.tail
          outputs := s.outputs ++ [.emission .sink (recordOf sec usec payload) .fail] }) ∧
      (∀ (idx seq : Half) (payload : Bytes) (n : Nat) (ts : Timestamp), payload.length ≤ 65535 →
        exec (.matchPacket idx seq payload n ts) s = exec (.fatalIO .sink) { s with
          expectedSeqNr := seqNext s.expectedSeqNr, lastIndex := idx, lastSeqNr := seq, sinkDraws := s.sinkDraws.tail
          outputs := s.outputs ++ [.emission .sink (recordOf ts.sec ts.usec payload) .fail] }))

/-! ### Events -/

/-- RESET (R270): every field at its reset value, in every state; the constants stay, and so does what the environment has
still to supply. The empty output history is R40's (log 6). Rests on the spec's decision D4 (log 18). -/
def Obligations.ResetRestoresEveryField : Prop :=
  ∀ s : State, exec .reset s = .next { s with
    phase := .stopping, channel := 0, expectedSeqNr := 0, lastIndex := 0, lastSeqNr := 0, unackedByteCount := 0
    receiving := false, rxBuf := [], hdrWritten := false, fatal := false, outputs := [], result := .none }

/-- The state after reset (R40), and what R271 says of it: RX, TIMEOUT, WINDOW and STOPREQ have no effect, START is refused
until HDR has been done, and HDR is accepted once. Rests on the spec's decisions D4 and D5 (log 18); the spec marks R271 as
derived from R184. -/
def Obligations.ResetStateIsIdle : Prop :=
  State.reset.phase = .stopping ∧ State.reset.channel = 0 ∧ State.reset.expectedSeqNr = 0 ∧ State.reset.lastIndex = 0 ∧
  State.reset.lastSeqNr = 0 ∧ State.reset.unackedByteCount = 0 ∧ State.reset.receiving = false ∧
  State.reset.rxBuf = [] ∧ State.reset.hdrWritten = false ∧ State.reset.fatal = false ∧ State.reset.outputs = [] ∧
  (∃ t : State, exec .hdr State.reset = .next t ∧ t.hdrWritten = true ∧ t.fatal = false ∧
    exec .hdr t = .refused .headerAlreadyWritten ∧ ∃ u : State, exec (.start 11) t = .next u) ∧
  (∀ (b : Byte) (now : Timestamp), exec (.rx b now) State.reset = .next State.reset) ∧
  exec .timeout State.reset = .next State.reset ∧ exec .window State.reset = .next State.reset ∧
  exec .stopreq State.reset = .next State.reset ∧
  (∀ ch : Byte, exec (.start ch) State.reset = .refused .startBeforeHeader)

/-- HDR (R210): the 24-byte header as one emission, then the flag; a failed emission takes the fatal path and the flag stays;
refused when the header is written. The flag and the refusal are the spec's decision D18 (log 24). -/
def Obligations.HdrWritesTheHeaderOnce : Prop :=
  ∀ s : State, s.fatal = false →
    (s.hdrWritten = false → s.sinkDraws.headD .ok = .ok → exec .hdr s = .next { s with
      hdrWritten := true, sinkDraws := s.sinkDraws.tail
      outputs := s.outputs ++ [.emission .sink globalHeaderBytes .ok] }) ∧
    (s.hdrWritten = false → s.sinkDraws.headD .ok = .fail → exec .hdr s = exec (.fatalIO .sink) { s with
      sinkDraws := s.sinkDraws.tail
      outputs := s.outputs ++ [.emission .sink globalHeaderBytes .fail] }) ∧
    (s.hdrWritten = true → exec .hdr s = .refused .headerAlreadyWritten)

/-- START (R160): in `Stopping` and `Connecting`, after HDR, with a channel 11..26: channel stored, frame state cleared, phase
Connecting, one RST frame; the session registers untouched. Otherwise it is refused, the checks in the rule's order. Rests on
the spec's decisions D6 and D17 (log 24). -/
def Obligations.StartBeginsTheConnect : Prop :=
  ∀ (s : State) (ch : Byte), s.fatal = false →
    (s.hdrWritten = true → 11 ≤ ch.toNat → ch.toNat ≤ 26 → s.phase ≠ .connected → s.txDraws.headD .ok = .ok →
      exec (.start ch) s = .next { s with
        channel := ch, receiving := false, rxBuf := [], phase := .connecting, txDraws := s.txDraws.tail
        outputs := s.outputs ++ [.emission .tx (encodeFrame s.cfg.crcTable [0x52, 0x53, 0x54, ch]) .ok] }) ∧
    (s.hdrWritten = false → exec (.start ch) s = .refused .startBeforeHeader) ∧
    (s.hdrWritten = true → ch.toNat < 11 ∨ 26 < ch.toNat → exec (.start ch) s = .refused .channelOutOfRange) ∧
    (s.hdrWritten = true → 11 ≤ ch.toNat → ch.toNat ≤ 26 → s.phase = .connected →
      exec (.start ch) s = .refused .startWhileConnected)

/-- Every input R250 names is refused, each under its own name. Rests on the spec's decision D17 (log 24). -/
def Obligations.ContractViolationsAreRefused : Prop :=
  ∀ s : State,
    (s.fatal = true → ∀ i : Instr, i.kind = .event → i ≠ .reset → exec i s = .refused .eventWhileFatal) ∧
    (s.fatal = false → ∀ ch : Byte,
      (s.hdrWritten = false → exec (.start ch) s = .refused .startBeforeHeader) ∧
      (s.hdrWritten = true → ch.toNat < 11 ∨ 26 < ch.toNat → exec (.start ch) s = .refused .channelOutOfRange) ∧
      (s.hdrWritten = true → 11 ≤ ch.toNat → ch.toNat ≤ 26 → s.phase = .connected →
        exec (.start ch) s = .refused .startWhileConnected)) ∧
    (s.fatal = false → s.hdrWritten = true → exec .hdr s = .refused .headerAlreadyWritten) ∧
    (∀ (k : Nat) (b : Byte) (now : Timestamp), s.fatal = false → s.phase ≠ .stopping → s.receiving = true →
      s.cfg.bufMax = some k → k < s.rxBuf.length + 1 → b ≠ 0x7E → exec (.rx b now) s = .refused .bufferOverflow) ∧
    (∀ (sec usec : Long) (payload : Bytes), 65535 < payload.length →
      exec (.writeRecord sec usec payload) s = .refused .payloadTooLong ∧
      exec (.record sec usec payload) s = .refused .payloadTooLong ∧
      ∀ (idx seq : Half) (n : Nat), exec (.matchPacket idx seq payload n ⟨sec, usec⟩) s = .refused .payloadTooLong)

/-- WINDOW (R161): in `Connecting` the partial run is discarded and the RST of the stored channel sent again; in `Connected`
and `Stopping` no effect. Dropping the partial run is the spec's decision D8 (log 24). -/
def Obligations.WindowResendsTheRst : Prop :=
  ∀ s : State, s.fatal = false →
    (s.phase = .connecting → 11 ≤ s.channel.toNat → s.channel.toNat ≤ 26 → s.txDraws.headD .ok = .ok →
      exec .window s = .next { s with
        receiving := false, rxBuf := [], txDraws := s.txDraws.tail
        outputs := s.outputs ++
          [.emission .tx (encodeFrame s.cfg.crcTable [0x52, 0x53, 0x54, s.channel]) .ok] }) ∧
    (s.phase ≠ .connecting → exec .window s = .next s)

/-- R182: in `Stopping`, RX, TIMEOUT, WINDOW and STOPREQ have no effect. Rests on the spec's decisions D4 and D16 (log 24). -/
def Obligations.StoppingIgnoresInput : Prop :=
  ∀ (s : State) (b : Byte) (now : Timestamp), s.fatal = false → s.phase = .stopping →
    exec (.rx b now) s = .next s ∧ exec .timeout s = .next s ∧ exec .window s = .next s ∧ exec .stopreq s = .next s

/-- TIMEOUT (R164, R180): no effect in the connect phase and outside a frame; inside a frame the partial buffer is dropped and
a NACK of the last good identifiers sent, with an empty buffer too and without a warning. That the flag is cleared, that
nothing is warned and that the connect phase ignores it are the spec's decision D11 (log 24). -/
def Obligations.TimeoutInsideAFrameSendsNack : Prop :=
  ∀ s : State, s.fatal = false →
    (s.phase = .connecting → exec .timeout s = .next s) ∧
    (s.phase = .connected → s.receiving = false → exec .timeout s = .next s) ∧
    (s.phase = .connected → s.receiving = true → s.txDraws.headD .ok = .ok → exec .timeout s = .next { s with
      receiving := false, rxBuf := [], txDraws := s.txDraws.tail
      outputs := s.outputs ++
        [.emission .tx (encodeFrame s.cfg.crcTable (mkNack s.lastIndex s.lastSeqNr)) .ok] })

/-- RX in the receive loop outside a frame (R165, R166): a byte is dropped with a warning; a delimiter starts accumulation. -/
def Obligations.ByteOutsideAFrame : Prop :=
  ∀ (s : State) (b : Byte) (now : Timestamp), s.fatal = false → s.phase = .connected → s.receiving = false →
    (b ≠ 0x7E → exec (.rx b now) s = .next { s with outputs := s.outputs ++ [.warn (.byteDropped b)] }) ∧
    (b = 0x7E → exec (.rx b now) s = .next { s with receiving := true, rxBuf := [] })

/-- RX in the receive loop inside a frame (R167, R168): a byte within BUF_MAX is accumulated raw, one beyond it refused; a
delimiter with an empty buffer is a warning and clears the flag. Accumulation is the spec's inference in R167, the cleared
flag its decision D10, the capacity its parameter D3 (logs 2 and 24). -/
def Obligations.ByteInsideAFrame : Prop :=
  ∀ (s : State) (b : Byte) (now : Timestamp), s.fatal = false → s.phase = .connected → s.receiving = true →
    (b ≠ 0x7E → (∀ k : Nat, s.cfg.bufMax = some k → s.rxBuf.length + 1 ≤ k) →
      exec (.rx b now) s = .next { s with rxBuf := s.rxBuf ++ [b] }) ∧
    (b ≠ 0x7E → (∃ k : Nat, s.cfg.bufMax = some k ∧ k < s.rxBuf.length + 1) →
      exec (.rx b now) s = .refused .bufferOverflow) ∧
    (b = 0x7E → s.rxBuf = [] →
      exec (.rx b now) s = .next { s with receiving := false, outputs := s.outputs ++ [.warn .emptyFrame] })

/-- R169: the delimiter that closes a non-empty run leaves the frame and closes the run with this event's timestamp; it does
not open the next frame. That this delimiter does not open the next frame is the spec's decision D9 (log 24). -/
def Obligations.ClosingDelimiterClosesTheRun : Prop :=
  ∀ (s : State) (now : Timestamp), s.fatal = false → s.phase = .connected → s.receiving = true → s.rxBuf ≠ [] →
    exec (.rx 0x7E now) s = exec (.close s.rxBuf now) { s with receiving := false, rxBuf := [] }

/-- RX in the connect phase (R162, R85): bytes outside a run are discarded silently, inside they are accumulated; a delimiter
opens a run or ends one, and then connects exactly if the run decodes to READY. That a delimiter which ends one run opens the
next is the spec's decision D7 (log 24). -/
def Obligations.ConnectPhaseScansForReady : Prop :=
  ∀ (s : State) (b : Byte) (now : Timestamp), s.fatal = false → s.phase = .connecting →
    (b ≠ 0x7E → s.receiving = false → exec (.rx b now) s = .next s) ∧
    (b ≠ 0x7E → s.receiving = true → (∀ k : Nat, s.cfg.bufMax = some k → s.rxBuf.length + 1 ≤ k) →
      exec (.rx b now) s = .next { s with rxBuf := s.rxBuf ++ [b] }) ∧
    (b = 0x7E → s.receiving = false → exec (.rx b now) s = .next { s with receiving := true, rxBuf := [] }) ∧
    (b = 0x7E → s.receiving = true → (∃ crc : Half, (deframe s.cfg.crcTable s.rxBuf).1 = .ok [0x52, 0x45, 0x41, 0x44, 0x59] crc) →
      exec (.rx b now) s = exec .connect s) ∧
    (b = 0x7E → s.receiving = true → (∀ crc : Half, (deframe s.cfg.crcTable s.rxBuf).1 ≠ .ok [0x52, 0x45, 0x41, 0x44, 0x59] crc) →
      exec (.rx b now) s = .next { s with rxBuf := [] })

/-- STOPREQ (R181): in `Connecting` and `Connected` the partial frame is dropped without a NACK, phase Stopping, one STOP; in
`Stopping` no effect. Rests on the spec's decision D16 (log 24). -/
def Obligations.StopreqSendsStopOnce : Prop :=
  ∀ s : State, s.fatal = false →
    (s.phase ≠ .stopping → s.txDraws.headD .ok = .ok → exec .stopreq s = .next { s with
      receiving := false, rxBuf := [], phase := .stopping, txDraws := s.txDraws.tail
      outputs := s.outputs ++ [.emission .tx (encodeFrame s.cfg.crcTable [0x53, 0x54, 0x4F, 0x50]) .ok] }) ∧
    (s.phase = .stopping → exec .stopreq s = .next s)

/-! ### Rows that are byte patterns (the model's reading, logs 9 and 10) -/

/-- The wire symbols as received bytes: FLAG and ESC are one RX event, the pairs two, raw bytes accumulated inside a frame
(R71, R167). The reading of a symbol as received bytes is the model's (log 9). -/
def Obligations.WireSymbolsAreReceived : Prop :=
  ∀ (s : State) (x : Byte), s.fatal = false →
    exec .flag s = exec (.rx 0x7E s.clock) s ∧
    (s.phase = .connected → s.receiving = false → exec .flag s = .next { s with receiving := true, rxBuf := [] }) ∧
    (s.phase ≠ .stopping → s.receiving = true → s.cfg.bufMax = none →
      exec .esc s = .next { s with rxBuf := s.rxBuf ++ [0x7D] } ∧
      exec .escFlag s = .next { s with rxBuf := s.rxBuf ++ [0x7D, 0x5E] } ∧
      exec .escEsc s = .next { s with rxBuf := s.rxBuf ++ [0x7D, 0x5D] } ∧
      (x ≠ 0x7E → exec (.escAny x) s = .next { s with rxBuf := s.rxBuf ++ [0x7D, x] }))

/-- The messages the block sends and the capture headers as emissions (R79, R125, R82, R83). The reading of these rows as
emissions is the model's (log 9), and so are the bytes of RECORD_HEADER with an empty payload (log 14). -/
def Obligations.OutboundRowsAreEmitted : Prop :=
  ∀ (s : State) (idx seq : Half) (ch : Byte) (sec usec : Long) (payload : Bytes), s.fatal = false →
    (s.txDraws.headD .ok = .ok →
      (11 ≤ ch.toNat → ch.toNat ≤ 26 → exec (.rst ch) s = .next { s with
        txDraws := s.txDraws.tail
        outputs := s.outputs ++ [.emission .tx (encodeFrame s.cfg.crcTable [0x52, 0x53, 0x54, ch]) .ok] }) ∧
      exec (.ack idx seq) s = .next { s with
        txDraws := s.txDraws.tail
        outputs := s.outputs ++ [.emission .tx (encodeFrame s.cfg.crcTable (mkAck idx seq)) .ok] } ∧
      exec (.nack idx seq) s = .next { s with
        txDraws := s.txDraws.tail
        outputs := s.outputs ++ [.emission .tx (encodeFrame s.cfg.crcTable (mkNack idx seq)) .ok] } ∧
      exec .stop s = .next { s with
        txDraws := s.txDraws.tail
        outputs := s.outputs ++ [.emission .tx (encodeFrame s.cfg.crcTable [0x53, 0x54, 0x4F, 0x50]) .ok] }) ∧
    (s.sinkDraws.headD .ok = .ok →
      exec .globalHeader s = .next { s with
        sinkDraws := s.sinkDraws.tail
        outputs := s.outputs ++ [.emission .sink globalHeaderBytes .ok] } ∧
      (payload.length ≤ 65535 → exec (.recordHeader sec usec payload) s = .next { s with
        sinkDraws := s.sinkDraws.tail
        outputs := s.outputs ++ [.emission .sink (recordBytes sec usec payload) .ok] }))

/-- The frame of a message, received whole in the receive loop, does what R170 says of the message: byte stuffing, the
checksum for every table, the accumulation and the deframer cancel out. A message of fewer than 5 bytes is rejected as too
short with a NACK. That the row means received bytes is the model's (logs 9 and 10). -/
def Obligations.FrameDeliversItsMessage : Prop :=
  ∀ (s : State) (m : Bytes), s.fatal = false → s.phase = .connected → s.receiving = false → s.cfg.bufMax = none →
    (∀ (i0 i1 q0 q1 : Byte) (payload : Bytes), m = i0 :: i1 :: q0 :: q1 :: payload → payload ≠ [] →
      exec (.frame m) s =
        if m = [0x52, 0x45, 0x41, 0x44, 0x59] then
          .next { s with rxBuf := [], phase := .connecting, outputs := s.outputs ++ [.signal .peerReset] }
        else if join16 q0 q1 = s.expectedSeqNr then
          exec (.matchPacket (join16 i0 i1) (join16 q0 q1) payload (4 + payload.length) s.clock) { s with rxBuf := [] }
        else exec (.mismatch (join16 q0 q1) (4 + payload.length)) { s with rxBuf := [] }) ∧
    (m.length < 5 → s.txDraws.headD .ok = .ok → exec (.frame m) s = .next { s with
      rxBuf := [], txDraws := s.txDraws.tail
      outputs := s.outputs ++ [.warn (.frameTooShort (m.length + 2)),
        .emission .tx (encodeFrame s.cfg.crcTable (mkNack s.lastIndex s.lastSeqNr)) .ok] })

/-- An Application Packet with the expected number, received whole in the receive loop: the registers advance, its payload
goes to the capture with the timestamp of the closing delimiter, and its decoded length is counted (R174). That the row means
received bytes is the model's (logs 9 and 10). -/
def Obligations.PacketInOrderIsCaptured : Prop :=
  ∀ (s : State) (idx : Half) (payload : Bytes), s.fatal = false → s.phase = .connected → s.receiving = false →
    s.cfg.bufMax = none → 1 ≤ payload.length → payload.length ≤ 65535 →
    packetBytes idx s.expectedSeqNr payload ≠ [0x52, 0x45, 0x41, 0x44, 0x59] → s.sinkDraws.headD .ok = .ok →
    s.unackedByteCount + (4 + payload.length) < 250 →
    exec (.packet idx s.expectedSeqNr payload) s = .next { s with
      expectedSeqNr := seqNext s.expectedSeqNr, lastIndex := idx, lastSeqNr := s.expectedSeqNr
      unackedByteCount := s.unackedByteCount + (4 + payload.length)
      rxBuf := [], sinkDraws := s.sinkDraws.tail
      outputs := s.outputs ++ [.emission .sink (recordBytes s.clock.sec s.clock.usec payload) .ok] }

/-- READY received whole: in the connect phase, outside a run, it connects (R162, R163, R273); in the receive loop it is a
peer reset (R171). That the row means received bytes is the model's (logs 9 and 10). -/
def Obligations.ReadyConnectsOrResets : Prop :=
  ∀ s : State, s.fatal = false → s.receiving = false → s.cfg.bufMax = none →
    (s.phase = .connecting → exec .ready s = .next { s with
      phase := .connected, expectedSeqNr := 1, lastIndex := 0, lastSeqNr := 0, unackedByteCount := 0, rxBuf := [] }) ∧
    (s.phase = .connected → exec .ready s = .next { s with
      phase := .connecting, rxBuf := [], outputs := s.outputs ++ [.signal .peerReset] })

/-! ### The whole machine -/

/-- The invariants of R39, the TX stream and the capture stream hold at reset. The reset values are the spec's decisions D4
and D5, those of the model's own fields log 18. -/
def Obligations.InvariantsHoldAtReset : Prop :=
  SessionInv State.reset ∧ State.reset.traceDeliverable ∧ TxStreamInv State.reset ∧ CaptureStreamInv State.reset

/-- R39: from every state that meets the invariants, with inputs the environment can deliver, every step keeps them. The spec
marks R39 as derived; the inputs the environment can deliver are log 8's. -/
def Obligations.SessionInvariantIsKept : Prop :=
  ∀ s t : State, SessionInv s → s.traceDeliverable → step s = .next t → SessionInv t ∧ t.traceDeliverable

/-- R79, R125: what the block puts on TX is always the frame of an RST with a legal channel, an ACK, a NACK or a STOP; it
never sends READY or an Application Packet. The inputs the environment can deliver are log 8's. -/
def Obligations.TxCarriesOnlyOutboundMessages : Prop :=
  ∀ s t : State, SessionInv s → s.traceDeliverable → TxStreamInv s → step s = .next t → TxStreamInv t

/-- R217: the capture stream is the global header once, then zero or more records, and nothing before the header. The spec
marks R217 as derived; the stream since reset is log 6's. -/
def Obligations.CaptureIsHeaderThenRecords : Prop :=
  ∀ s t : State, SessionInv s → s.traceDeliverable → CaptureStreamInv s → step s = .next t → CaptureStreamInv t

/-- R185: besides reset, `expectedSeqNr` is written by two rules only: to 1 when READY is accepted in the connect phase, and to
its successor when a run decodes, is not READY and carries exactly the expected number. -/
def Obligations.ExpectedNumberHasTwoWriters : Prop :=
  ∀ (i : Instr) (s t : State), i.kind = .event → i ≠ .reset → exec i s = .next t →
    t.expectedSeqNr = s.expectedSeqNr ∨
    (s.phase = .connecting ∧ s.receiving = true ∧ t.phase = .connected ∧ t.expectedSeqNr = 1 ∧
      ∃ now crc, i = .rx 0x7E now ∧ (deframe s.cfg.crcTable s.rxBuf).1 = .ok [0x52, 0x45, 0x41, 0x44, 0x59] crc) ∨
    (s.phase = .connected ∧ s.receiving = true ∧ t.expectedSeqNr = seqNext s.expectedSeqNr ∧
      ∃ (now : Timestamp) (msg : Bytes) (crc : Half), i = .rx 0x7E now ∧
        deframe s.cfg.crcTable s.rxBuf = (.ok msg crc, none) ∧ msg ≠ [0x52, 0x45, 0x41, 0x44, 0x59] ∧
        (parsePkt msg).2.1 = s.expectedSeqNr)

/-- R187: the phase changes only as its table says. The transitions at reset, at STOPREQ and on a failed write are the spec's
decisions D4, D16 and D19 (log 24). -/
def Obligations.PhaseTransitions : Prop :=
  ∀ (i : Instr) (s t : State), i.kind = .event → exec i s = .next t → t.phase ≠ s.phase →
    (i = .reset ∧ t.phase = .stopping) ∨
    (s.phase = .stopping ∧ t.phase = .connecting ∧ ∃ ch, i = .start ch) ∨
    (s.phase = .connecting ∧ s.receiving = true ∧ t.phase = .connected ∧
      ∃ now crc, i = .rx 0x7E now ∧ (deframe s.cfg.crcTable s.rxBuf).1 = .ok [0x52, 0x45, 0x41, 0x44, 0x59] crc) ∨
    (s.phase = .connected ∧ s.receiving = true ∧ t.phase = .connecting ∧
      ∃ now crc, i = .rx 0x7E now ∧ (deframe s.cfg.crcTable s.rxBuf).1 = .ok [0x52, 0x45, 0x41, 0x44, 0x59] crc) ∨
    (t.phase = .stopping ∧ i = .stopreq) ∨
    (t.phase = .stopping ∧ t.fatal = true)

/-- R34: the constants and the table are read-only and keep their value through every row, reset among them, and so through
every step. -/
def Obligations.ConstantsNeverChange : Prop :=
  (∀ (i : Instr) (s t : State), exec i s = .next t → t.cfg = s.cfg) ∧
  (∀ s t : State, step s = .next t → t.cfg = s.cfg)

/-- R232: an event in the connect phase adds no warning to the output history. -/
def Obligations.ConnectPhaseNeverWarns : Prop :=
  ∀ (i : Instr) (s t : State), i.kind = .event → i ≠ .reset → s.phase = .connecting → exec i s = .next t →
    ∃ added : List Output, t.outputs = s.outputs ++ added ∧ ∀ w : Warning, Output.warn w ∉ added

/-- R184, R250: every event in every state answers a next state, or a refusal whose condition in R250 holds (`RefusedByR250`);
it never faults. With the header written, the channel legal, no capacity limit and no run too long to record, an event in a
live session runs. The contract is the spec's decision D17 (log 24). -/
def Obligations.EventsRunWithinTheContract : Prop :=
  (∀ (i : Instr) (s : State), i.kind = .event →
    (∃ t : State, exec i s = .next t) ∨ ∃ r : Refusal, exec i s = .refused r ∧ RefusedByR250 i s r) ∧
  (∀ (i : Instr) (s : State), i.kind = .event → s.fatal = false →
    (∀ ch, i = .start ch → s.hdrWritten = true ∧ legalChannel ch ∧ s.phase ≠ .connected) →
    (i = .hdr → s.hdrWritten = false) →
    ((∃ b now, i = .rx b now) → s.cfg.bufMax = none ∧ s.rxBuf.length ≤ 65541) →
    ∃ t : State, exec i s = .next t)
end

