-- ==== Sys2Proof/Laws/Bytes.lean ====
section
/-! SUPPORT. Facts about the byte formats: splitting and assembling fields (R5), stuffing and un-escaping (R120, R141), and
what DECODE answers (R144). -/

namespace Sys2Proof.Machine

/-! ### Fields -/

theorem join16_toNat (h l : Byte) : (join16 h l).toNat = h.toNat * 256 + l.toNat := by
  have := h.isLt
  have := l.isLt
  simp only [join16, BitVec.toNat_ofNat]
  omega

@[simp] theorem hi8_join16 (h l : Byte) : hi8 (join16 h l) = h := by
  have := h.isLt
  have := l.isLt
  apply BitVec.eq_of_toNat_eq
  simp only [hi8, BitVec.toNat_setWidth, BitVec.toNat_ushiftRight, join16_toNat, Nat.shiftRight_eq_div_pow]
  omega

@[simp] theorem lo8_join16 (h l : Byte) : lo8 (join16 h l) = l := by
  have := l.isLt
  apply BitVec.eq_of_toNat_eq
  simp only [lo8, BitVec.toNat_setWidth, join16_toNat]
  omega

@[simp] theorem join16_hi8_lo8 (v : Half) : join16 (hi8 v) (lo8 v) = v := by
  have := v.isLt
  apply BitVec.eq_of_toNat_eq
  simp only [join16_toNat, hi8, lo8, BitVec.toNat_setWidth, BitVec.toNat_ushiftRight, Nat.shiftRight_eq_div_pow]
  omega

/-- Every 16-bit value is its two bytes (R5). -/
theorem exists_join16 (v : Half) : ∃ h l, v = join16 h l := ⟨hi8 v, lo8 v, (join16_hi8_lo8 v).symm⟩

@[simp] theorem be16_join16 (h l : Byte) : be16 (join16 h l) = [h, l] := by simp [be16]

theorem join32_toNat (a b c d : Byte) :
    (join32 a b c d).toNat = ((a.toNat * 256 + b.toNat) * 256 + c.toNat) * 256 + d.toNat := by
  have := a.isLt
  have := b.isLt
  have := c.isLt
  have := d.isLt
  simp only [join32, BitVec.toNat_ofNat]
  omega

@[simp] theorem be32_join32 (a b c d : Byte) : be32 (join32 a b c d) = [a, b, c, d] := by
  have := a.isLt
  have := b.isLt
  have := c.isLt
  have := d.isLt
  simp only [be32, List.cons.injEq, and_true]
  refine ⟨?_, ?_, ?_, ?_⟩ <;> apply BitVec.eq_of_toNat_eq <;>
    simp only [BitVec.toNat_setWidth, BitVec.toNat_ushiftRight, join32_toNat, Nat.shiftRight_eq_div_pow] <;> omega

/-- Every 32-bit value is its four bytes (R5). -/
theorem exists_join32 (v : Long) : ∃ a b c d, v = join32 a b c d := by
  refine ⟨(v >>> 24).setWidth 8, (v >>> 16).setWidth 8, (v >>> 8).setWidth 8, v.setWidth 8, ?_⟩
  have := v.isLt
  apply BitVec.eq_of_toNat_eq
  simp only [join32_toNat, BitVec.toNat_setWidth, BitVec.toNat_ushiftRight, Nat.shiftRight_eq_div_pow]
  omega

@[simp] theorem u16be_zero (a b : Byte) (r : Bytes) : u16be (a :: b :: r) 0 = join16 a b := rfl

@[simp] theorem u16be_cons (a : Byte) (r : Bytes) (i : Nat) : u16be (a :: r) (i + 1) = u16be r i := rfl

@[simp] theorem u32be_zero (a b c d : Byte) (r : Bytes) : u32be (a :: b :: c :: d :: r) 0 = join32 a b c d := rfl

@[simp] theorem u32be_cons (a : Byte) (r : Bytes) (i : Nat) : u32be (a :: r) (i + 1) = u32be r i := rfl

/-- The last two bytes of a sequence, read big-endian (R146). -/
theorem u16be_tail (m : Bytes) (h l : Byte) : u16be (m ++ [h, l]) m.length = join16 h l := by
  induction m with
  | nil => rfl
  | cons b m ih => exact ih

/-! ### Stuffing -/

theorem stuff_flag : stuff 0x7E = [0x7D, 0x5E] := rfl
theorem stuff_esc : stuff 0x7D = [0x7D, 0x5D] := rfl

theorem stuff_plain {b : Byte} (hf : b ≠ 0x7E) (he : b ≠ 0x7D) : stuff b = [b] := by
  have : ¬ (b = flagByte ∨ b = escByte) := by rintro (h | h) <;> contradiction
  simp only [stuff, this, if_false]

/-- The three forms of a stuffed byte (R120). -/
theorem stuff_cases (b : Byte) :
    (b = 0x7E ∧ stuff b = [0x7D, 0x5E]) ∨ (b = 0x7D ∧ stuff b = [0x7D, 0x5D]) ∨
      (b ≠ 0x7E ∧ b ≠ 0x7D ∧ stuff b = [b]) := by
  by_cases hf : b = 0x7E
  · subst hf; exact .inl ⟨rfl, rfl⟩
  · by_cases he : b = 0x7D
    · subst he; exact .inr (.inl ⟨rfl, rfl⟩)
    · exact .inr (.inr ⟨hf, he, stuff_plain hf he⟩)

@[simp] theorem stuffSeq_nil : stuffSeq [] = [] := rfl

@[simp] theorem stuffSeq_cons (b : Byte) (m : Bytes) : stuffSeq (b :: m) = stuff b ++ stuffSeq m := rfl

theorem stuffSeq_append (m n : Bytes) : stuffSeq (m ++ n) = stuffSeq m ++ stuffSeq n := by
  simp [stuffSeq]

/-- The run of a frame is the stuffed message with its checksum behind it (R70). -/
theorem frameRun_eq (t : CrcTable) (m : Bytes) :
    frameRun t m = stuffSeq (m ++ [hi8 (crc16 t m), lo8 (crc16 t m)]) := by
  simp [frameRun, stuffSeq_append]

theorem flag_not_mem_stuff (b : Byte) : (0x7E : Byte) ∉ stuff b := by
  rcases stuff_cases b with ⟨_, h⟩ | ⟨_, h⟩ | ⟨hf, _, h⟩ <;> rw [h]
  · decide
  · decide
  · simpa using fun h => hf h.symm

/-- The delimiter never stands in stuffed bytes (R71, R123). -/
theorem flag_not_mem_stuffSeq (m : Bytes) : (0x7E : Byte) ∉ stuffSeq m := by
  induction m with
  | nil => simp
  | cons b m ih =>
    rw [stuffSeq_cons, List.mem_append]
    exact fun h => h.elim (flag_not_mem_stuff b) ih

theorem flag_not_mem_frameRun (t : CrcTable) (m : Bytes) : (0x7E : Byte) ∉ frameRun t m := by
  rw [frameRun_eq]; exact flag_not_mem_stuffSeq _

theorem stuff_length (b : Byte) : 1 ≤ (stuff b).length ∧ (stuff b).length ≤ 2 := by
  rcases stuff_cases b with ⟨_, h⟩ | ⟨_, h⟩ | ⟨_, _, h⟩ <;> simp [h]

/-! ### Un-escaping -/

@[simp] theorem unstuff_nil : unstuff [] = some [] := rfl
@[simp] theorem unstuff_lone_esc : unstuff [0x7D] = none := rfl

/-- An escape byte with a byte after it (R141, R143). -/
@[simp] theorem unstuff_esc (x : Byte) (r : Bytes) :
    unstuff (0x7D :: x :: r) = (unstuff r).map ((x ^^^ 0x20) :: ·) := by
  simp [unstuff, escByte, escMask]

/-- A byte that is no escape byte (R141). -/
theorem unstuff_plain {b : Byte} (h : b ≠ 0x7D) (r : Bytes) : unstuff (b :: r) = (unstuff r).map (b :: ·) := by
  have h' : ¬ b = escByte := h
  cases r with
  | nil => simp [unstuff, h']
  | cons c r => simp [unstuff, h']

/-- One stuffed byte in front of a run (R143). -/
theorem unstuff_stuff_append (b : Byte) (r : Bytes) : unstuff (stuff b ++ r) = (unstuff r).map (b :: ·) := by
  rcases stuff_cases b with ⟨hb, h⟩ | ⟨hb, h⟩ | ⟨_, he, h⟩ <;> rw [h]
  · subst hb; exact unstuff_esc 0x5E r
  · subst hb; exact unstuff_esc 0x5D r
  · exact unstuff_plain he r

/-- A stuffed sequence in front of a run (R143). -/
theorem unstuff_stuffSeq_append (m r : Bytes) : unstuff (stuffSeq m ++ r) = (unstuff r).map (m ++ ·) := by
  induction m with
  | nil => cases h : unstuff r <;> simp [h]
  | cons b m ih =>
    rw [stuffSeq_cons, List.append_assoc, unstuff_stuff_append, ih]
    cases unstuff r <;> simp

theorem unstuff_frameRun (t : CrcTable) (m : Bytes) :
    unstuff (frameRun t m) = some (m ++ [hi8 (crc16 t m), lo8 (crc16 t m)]) := by
  rw [frameRun_eq, ← List.append_nil (stuffSeq _), unstuff_stuffSeq_append]
  simp

/-- An un-escaped run followed by more bytes: the scan goes on where it stood (R141). -/
theorem unstuff_append : ∀ (n : Nat) (lead u : Bytes), lead.length ≤ n → unstuff lead = some u → ∀ r : Bytes,
    unstuff (lead ++ r) = (unstuff r).map (u ++ ·)
  | _, [], u, _, h, r => by
    simp only [unstuff_nil, Option.some.injEq] at h
    subst h
    cases hr : unstuff r <;> simp [hr]
  | 0, b :: lead, u, hl, _, _ => by simp at hl
  | n + 1, b :: lead, u, hl, h, r => by
    have hl : lead.length ≤ n := by simpa using hl
    by_cases hb : b = 0x7D
    · subst hb
      match lead, hl, h with
      | [], _, h => simp [unstuff, escByte] at h
      | x :: rest, hl, h =>
        rw [unstuff_esc, Option.map_eq_some_iff] at h
        obtain ⟨v, hv, rfl⟩ := h
        rw [List.cons_append, List.cons_append, unstuff_esc, unstuff_append n rest v (Nat.le_of_succ_le (Nat.le_of_succ_le_succ hl)) hv r]
        cases unstuff r <;> simp
    · rw [unstuff_plain hb, Option.map_eq_some_iff] at h
      obtain ⟨v, hv, rfl⟩ := h
      rw [List.cons_append, unstuff_plain hb, unstuff_append n lead v hl hv r]
      cases unstuff r <;> simp

/-- Un-escaping never lengthens a run (R141). -/
theorem unstuff_length_le : ∀ (n : Nat) (run u : Bytes), run.length ≤ n → unstuff run = some u → u.length ≤ run.length
  | _, [], u, _, h => by
    simp only [unstuff_nil, Option.some.injEq] at h
    simp [← h]
  | 0, b :: run, u, hl, _ => by simp at hl
  | n + 1, b :: run, u, hl, h => by
    have hl : run.length ≤ n := by simpa using hl
    by_cases hb : b = 0x7D
    · subst hb
      match run, hl, h with
      | [], _, h => simp [unstuff, escByte] at h
      | x :: rest, hl, h =>
        rw [unstuff_esc, Option.map_eq_some_iff] at h
        obtain ⟨v, hv, rfl⟩ := h
        have := unstuff_length_le n rest v (Nat.le_of_succ_le (Nat.le_of_succ_le_succ hl)) hv
        simp only [List.length_cons]
        omega
    · rw [unstuff_plain hb, Option.map_eq_some_iff] at h
      obtain ⟨v, hv, rfl⟩ := h
      have := unstuff_length_le n run v hl hv
      simp only [List.length_cons]
      omega

/-- A run whose scan fails ends in an escape byte that is no second byte of a pair (R142). -/
theorem unstuff_none : ∀ (n : Nat) (run : Bytes), run.length ≤ n → unstuff run = none →
    ∃ lead u : Bytes, run = lead ++ [0x7D] ∧ unstuff lead = some u
  | _, [], _, h => by simp at h
  | 0, b :: run, hl, _ => by simp at hl
  | n + 1, b :: run, hl, h => by
    have hl : run.length ≤ n := by simpa using hl
    by_cases hb : b = 0x7D
    · subst hb
      match run, hl, h with
      | [], _, _ => exact ⟨[], [], rfl, rfl⟩
      | x :: rest, hl, h =>
        rw [unstuff_esc, Option.map_eq_none_iff] at h
        obtain ⟨l, u, rfl, hu⟩ := unstuff_none n rest (Nat.le_of_succ_le (Nat.le_of_succ_le_succ hl)) h
        exact ⟨0x7D :: x :: l, _, rfl, by rw [unstuff_esc, hu]; rfl⟩
    · rw [unstuff_plain hb, Option.map_eq_none_iff] at h
      obtain ⟨l, u, rfl, hu⟩ := unstuff_none n run hl h
      exact ⟨b :: l, _, rfl, by rw [unstuff_plain hb, hu]; rfl⟩

/-! ### DECODE -/

/-- DECODE of a run that un-escapes to a message and two checksum bytes (R145, R146). -/
theorem deframe_of_unstuff {run msg : Bytes} {h l : Byte} (t : CrcTable) (hu : unstuff run = some (msg ++ [h, l])) :
    deframe t run =
      if msg.length < 5 then (.reject .frameTooShort, some (.frameTooShort (msg.length + 2)))
      else if join16 h l = crc16 t msg then (.ok msg (crc16 t msg), none)
      else (.reject .checksumFailure, some (.checksumFailure (join16 h l) (crc16 t msg))) := by
  have hlen : (msg ++ [h, l]).length = msg.length + 2 := by simp
  simp only [deframe, hu, minUnstuffed, hlen]
  by_cases h5 : msg.length < 5
  · have : msg.length + 2 < 7 := by omega
    simp [h5, this]
  · have : ¬ msg.length + 2 < 7 := by omega
    simp [h5, this, u16be_tail]

/-- A list of two or more elements ends in two. -/
theorem exists_last_two (u : Bytes) (h : 2 ≤ u.length) : ∃ (m : Bytes) (a b : Byte), u = m ++ [a, b] := by
  refine ⟨u.take (u.length - 2), u[u.length - 2], u[u.length - 1], ?_⟩
  have h1 : u.drop (u.length - 2) = [u[u.length - 2], u[u.length - 1]] := by
    rw [List.drop_eq_getElem_cons (by omega), List.drop_eq_getElem_cons (by omega)]
    have : u.length - 2 + 1 = u.length - 1 := by omega
    simp [this, show u.length - 1 + 1 = u.length by omega]
  rw [← h1, List.take_append_drop]

/-- What a successful DECODE says of the run (R144, R147). -/
theorem deframe_ok {t : CrcTable} {run msg : Bytes} {crc : Half} {w : Option Warning}
    (h : deframe t run = (.ok msg crc, w)) :
    w = none ∧ crc = crc16 t msg ∧ 5 ≤ msg.length ∧ unstuff run = some (msg ++ [hi8 crc, lo8 crc]) := by
  cases hu : unstuff run with
  | none => simp [deframe, hu] at h
  | some u =>
    by_cases h2 : 2 ≤ u.length
    · obtain ⟨m, a, b, rfl⟩ := exists_last_two u h2
      rw [deframe_of_unstuff t hu] at h
      split at h
      · simp at h
      · split at h
        · rename_i h5 hab
          simp only [Prod.mk.injEq, DecodeResult.ok.injEq] at h
          obtain ⟨⟨rfl, rfl⟩, rfl⟩ := h
          refine ⟨rfl, rfl, by omega, ?_⟩
          rw [← hab]; simp
        · simp at h
    · have : u.length < 7 := by omega
      simp [deframe, hu, minUnstuffed, this] at h

/-- A rejection always carries its warning (R144, R148). -/
theorem deframe_reject {t : CrcTable} {run : Bytes} {r : RejectReason} {w : Option Warning}
    (h : deframe t run = (.reject r, w)) : ∃ x, w = some x := by
  cases hu : unstuff run with
  | none => simp [deframe, hu] at h; exact ⟨_, h.2.symm⟩
  | some u =>
    simp only [deframe, hu] at h
    split at h
    · simp at h; exact ⟨_, h.2.symm⟩
    · split at h
      · simp at h
      · simp at h; exact ⟨_, h.2.symm⟩

/-- DECODE either succeeds without a warning or rejects with one (R144). -/
theorem deframe_cases (t : CrcTable) (run : Bytes) :
    (∃ msg crc, deframe t run = (.ok msg crc, none) ∧ 5 ≤ msg.length) ∨
      ∃ r w, deframe t run = (.reject r, some w) := by
  rcases h : deframe t run with ⟨d, w⟩
  cases d with
  | ok msg crc =>
    obtain ⟨rfl, _, h5, _⟩ := deframe_ok h
    exact .inl ⟨msg, crc, rfl, h5⟩
  | reject r =>
    obtain ⟨x, rfl⟩ := deframe_reject h
    exact .inr ⟨r, x, rfl⟩

/-! ### Packets and sequence numbers -/

/-- PARSEPKT of a message of 5 bytes or more (R173). -/
theorem parsePkt_cons (a b c d : Byte) {p : Bytes} (hp : p ≠ []) :
    parsePkt (a :: b :: c :: d :: p) = (join16 a b, join16 c d, p) := by
  have : 5 ≤ (a :: b :: c :: d :: p).length := by
    have := List.length_pos_iff.mpr hp
    simp; omega
  simp only [parsePkt, this, if_true]
  rfl

/-- A message of 5 bytes or more is a header and a payload (R80). -/
theorem exists_packet {msg : Bytes} (h : 5 ≤ msg.length) :
    ∃ a b c d p, p ≠ [] ∧ msg = a :: b :: c :: d :: p ∧ msg.length = 4 + p.length := by
  match msg, h with
  | a :: b :: c :: d :: e :: p, _ => exact ⟨a, b, c, d, e :: p, by simp, rfl, by simp; omega⟩

/-- SEQNEXT never yields 0 (R177). -/
theorem seqNext_ne_zero (n : Half) : seqNext n ≠ 0 := by
  unfold seqNext
  split
  · decide
  · rename_i h
    intro h0
    apply h
    have : n = 0 - 1 := by
      have := congrArg (· - 1#16) h0
      simpa using this
    rw [this]; decide

end Sys2Proof.Machine
end

