-- ==== Sys2Proof/Laws/Encoding.lean ====
section
/-! SUPPORT. Facts about the textual and binary formats the decoder reads: decimal and hexadecimal numbers, the lines of a
trace (R90), and the frame of a message (R70). -/

namespace Sys2Proof

open Machine

/-! ### Numbers in text -/

theorem decimalDigit_toNat {n : Nat} (h : n < 10) : (decimalDigit n).toNat = 0x30 + n := by
  simp only [decimalDigit, BitVec.toNat_ofNat]
  omega

/-- A digit after a number is read as ten times the number and the digit. -/
theorem decimalNext_digit {n : Nat} (h : n < 10) (a : Nat) : decimalNext (some a) (decimalDigit n) = some (a * 10 + n) := by
  have := decimalDigit_toNat h
  simp only [decimalNext, Option.bind_some, this]
  rw [if_pos (by omega)]
  congr 1
  omega

/-- A number of at most `k` digits is read back. -/
theorem foldl_decimal : ∀ (k n : Nat), n < 10 ^ (k + 1) → (decimal (k + 1) n).foldl decimalNext (some 0) = some n
  | 0, n, h => by
    have : n < 10 := by simpa using h
    simp [decimal, this, decimalNext_digit this]
  | k + 1, n, h => by
    by_cases h10 : n < 10
    · rw [decimal, if_pos h10]
      simp [decimalNext_digit h10]
    · have hk : n / 10 < 10 ^ (k + 1) := by
        rw [Nat.pow_succ] at h
        omega
      rw [decimal, if_neg h10, List.foldl_append, foldl_decimal k _ hk]
      simp only [List.foldl_cons, List.foldl_nil]
      rw [decimalNext_digit (by omega)]
      congr 1
      omega

theorem decimal_ne_nil (k n : Nat) : decimal (k + 1) n ≠ [] := by
  rw [decimal]
  split <;> simp

/-- A decimal number is read back (R90). -/
theorem readDecimal_decimal {k n : Nat} (h : n < 10 ^ (k + 1)) : readDecimal (decimal (k + 1) n) = some n := by
  rw [readDecimal, if_neg (decimal_ne_nil k n), foldl_decimal k n h]

/-- No full stop stands among the digits. -/
theorem decimal_no_dot (k n : Nat) : ∀ b ∈ decimal k n, b ≠ charDot := by
  induction k generalizing n with
  | zero => simp [decimal]
  | succ k ih =>
    have hd : ∀ m, m < 10 → decimalDigit m ≠ charDot := by decide
    intro b hb
    rw [decimal] at hb
    split at hb
    · rename_i h10
      rw [List.mem_singleton] at hb
      exact hb ▸ hd n h10
    · rcases List.mem_append.mp hb with hb | hb
      · exact ih _ b hb
      · rw [List.mem_singleton] at hb
        exact hb ▸ hd _ (by omega)

/-- Two hexadecimal digits are read back. -/
theorem readHexDigit_hexDigit : ∀ n < 16, readHexDigit (hexDigit n) = some n := by decide

/-! ### Trace lines -/

theorem afterLead_append (lead r : Bytes) : afterLead lead (lead ++ r) = some r := by simp [afterLead]

/-- What stands after a lead is the rest of the line. -/
theorem afterLead_some {lead bs r : Bytes} (h : afterLead lead bs = some r) : bs = lead ++ r := by
  unfold afterLead at h
  split at h
  · rename_i ht
    simp only [Option.some.injEq] at h
    rw [← h]
    conv_lhs => rw [← List.take_append_drop lead.length bs, ht]
  · simp at h

/-- The timestamp of an RX line is read back (R90). -/
theorem readStamp_decimal (now : Timestamp) :
    readStamp (wordAt ++ decimal 10 now.sec.toNat ++ [charDot] ++ decimal 10 now.usec.toNat) = some now := by
  have hs := now.sec.isLt
  have hu := now.usec.isLt
  have ht : ∀ (a b : Bytes), (∀ x ∈ a, x ≠ charDot) →
      (a ++ charDot :: b).takeWhile (· ≠ charDot) = a ∧ (a ++ charDot :: b).dropWhile (· ≠ charDot) = charDot :: b := by
    intro a b ha
    constructor
    · rw [List.takeWhile_append_of_pos (by simpa using ha)]; simp
    · rw [List.dropWhile_append_of_pos (by simpa using ha)]; simp
  obtain ⟨h1, h2⟩ := ht (decimal 10 now.sec.toNat) (decimal 10 now.usec.toNat) (decimal_no_dot _ _)
  have hne : wordAt ++ (decimal 10 now.sec.toNat ++ charDot :: decimal 10 now.usec.toNat) ≠ [] := by simp [wordAt]
  simp only [List.append_assoc, List.singleton_append]
  rw [readStamp, if_neg hne, afterLead_append, Option.bind_some, h1, h2, List.tail_cons,
    readDecimal_decimal (by omega), readDecimal_decimal (by omega)]
  simp only [hs, hu, and_self, if_true]
  congr 1
  cases now
  simp

/-- The operand of a START line is read back (R90). -/
theorem readStart_decimal (ch : Byte) : readStart (decimal 3 ch.toNat) = .row (.start ch) := by
  have := ch.isLt
  rw [readStart, readDecimal_decimal (by omega)]
  simp only [this, if_true]
  simp

/-- The operands of an RX line are read back (R90). -/
theorem readRx_line (b : Byte) (now : Timestamp) :
    readRx ([hexDigit (b.toNat / 16), hexDigit (b.toNat % 16)] ++ wordAt ++ decimal 10 now.sec.toNat ++ [charDot] ++
      decimal 10 now.usec.toNat) = .row (.rx b now) := by
  have := b.isLt
  have h := readStamp_decimal now
  simp only [List.append_assoc, List.cons_append, List.nil_append] at h ⊢
  rw [readRx]
  simp only [readHexDigit_hexDigit _ (show b.toNat / 16 < 16 by omega), readHexDigit_hexDigit _ (show b.toNat % 16 < 16 by omega), h]
  congr 2
  apply BitVec.eq_of_toNat_eq
  simp only [BitVec.toNat_ofNat]
  omega

/-- A line that begins with `START` and a space is read for its channel (R90). -/
theorem decodeTrace_start (r : Bytes) : decodeTrace (wordStart ++ r) = readStart r := by
  unfold decodeTrace
  rw [if_neg (by simp [wordStart, wordReset]), if_neg (by simp [wordStart, wordHdr]),
    if_neg (by simp [wordStart, wordWindow]), if_neg (by simp [wordStart, wordTimeout]),
    if_neg (by simp [wordStart, wordStopreq]), afterLead_append]

/-- A line that begins with `RX` and a space is read for its byte and timestamp (R90). -/
theorem decodeTrace_rx (r : Bytes) : decodeTrace (wordRx ++ r) = readRx r := by
  have hs : afterLead wordStart (wordRx ++ r) = none := by simp [afterLead, wordStart, wordRx]
  unfold decodeTrace
  rw [if_neg (by simp [wordRx, wordReset]), if_neg (by simp [wordRx, wordHdr]),
    if_neg (by simp [wordRx, wordWindow]), if_neg (by simp [wordRx, wordTimeout]),
    if_neg (by simp [wordRx, wordStopreq]), hs, afterLead_append]

/-! ### Messages the block sends -/

/-- Seven bytes with the tag of an ACK are the ACK of the identifiers they hold (R76). -/
theorem encode_ack (t : CrcTable) {bs : Bytes} (hl : bs.length = 7) (ht : bs.take 3 = tagAck) :
    encode t (.ack (u16be bs 3) (u16be bs 5)) = some (.toPeer, bs) := by
  rcases bs with _ | ⟨a, _ | ⟨b, _ | ⟨c, _ | ⟨d, _ | ⟨e, _ | ⟨f, _ | ⟨g, _ | ⟨k, r⟩⟩⟩⟩⟩⟩⟩⟩ <;> simp at hl
  have ht : [a, b, c] = tagAck := ht
  have h1 : u16be [a, b, c, d, e, f, g] 3 = join16 d e := rfl
  have h2 : u16be [a, b, c, d, e, f, g] 5 = join16 f g := rfl
  rw [h1, h2]
  simp only [encode, ← ht, be16_join16]
  rfl

/-- Eight bytes with the tag of a NACK are the NACK of the identifiers they hold (R77). -/
theorem encode_nack (t : CrcTable) {bs : Bytes} (hl : bs.length = 8) (ht : bs.take 4 = tagNack) :
    encode t (.nack (u16be bs 4) (u16be bs 6)) = some (.toPeer, bs) := by
  rcases bs with _ | ⟨a, _ | ⟨b, _ | ⟨c, _ | ⟨d, _ | ⟨e, _ | ⟨f, _ | ⟨g, _ | ⟨k, _ | ⟨l, r⟩⟩⟩⟩⟩⟩⟩⟩⟩ <;> simp at hl
  have ht : [a, b, c, d] = tagNack := ht
  have h1 : u16be [a, b, c, d, e, f, g, k] 4 = join16 e f := rfl
  have h2 : u16be [a, b, c, d, e, f, g, k] 6 = join16 g k := rfl
  rw [h1, h2]
  simp only [encode, ← ht, be16_join16]
  rfl

/-! ### Frames and records -/

theorem encodeFrame_tail_dropLast (t : CrcTable) (m : Bytes) : (encodeFrame t m).tail.dropLast = frameRun t m := by
  simp [encodeFrame]

/-- A frame has at least four bytes (R124). -/
theorem encodeFrame_length (t : CrcTable) (m : Bytes) : 4 ≤ (encodeFrame t m).length := by
  have h1 := stuff_length (hi8 (crc16 t m))
  have h2 := stuff_length (lo8 (crc16 t m))
  simp only [encodeFrame, frameRun, List.length_append, List.length_singleton]
  omega

/-- The frame of a message is read back (R70). -/
theorem decodeFrame_encodeFrame (t : CrcTable) (m : Bytes) : decodeFrame t (encodeFrame t m) = .row (.frame m) := by
  rw [decodeFrame, encodeFrame_tail_dropLast, unstuff_frameRun]
  simp

/-- A byte string of three bytes or more on the wire is a frame or nothing (R70, R71). -/
theorem decodeWire_long {t : CrcTable} {bs : Bytes} (h : 3 ≤ bs.length) : decodeWire t bs = decodeFrame t bs := by
  match bs, h with
  | a :: b :: c :: r, _ => simp [decodeWire]

/-- What the frame decoder reads is the message whose frame the bytes are (R70). -/
theorem decodeFrame_row {t : CrcTable} {bs : Bytes} {i : Instr} (h : decodeFrame t bs = .row i) :
    ∃ m, i = .frame m ∧ bs = encodeFrame t m := by
  unfold decodeFrame at h
  split at h
  · simp at h
  · rename_i u hu
    dsimp only at h
    split at h
    · rename_i he
      simp only [Decoded.row.injEq] at h
      exact ⟨_, h.symm, he.symm⟩
    · simp at h

/-- The rows of the wire and the bytes of each (R70, R71). -/
theorem decodeWire_row {t : CrcTable} {bs : Bytes} {i : Instr} (h : decode t .wire bs = .row i) :
    (i = .flag ∧ bs = [flagByte]) ∨ (i = .esc ∧ bs = [escByte]) ∨ (i = .escFlag ∧ bs = [escByte, 0x5E]) ∨
      (i = .escEsc ∧ bs = [escByte, 0x5D]) ∨ (∃ x, i = .escAny x ∧ bs = [escByte, x]) ∨
      ∃ m, i = .frame m ∧ bs = encodeFrame t m := by
  simp only [decode] at h
  match bs, h with
  | [], h => simp [decodeWire, decodeFrame, encodeFrame, flagByte, escByte] at h
  | [a], h =>
    simp only [decodeWire] at h
    split at h
    · rename_i e; cases h; exact .inl ⟨rfl, e⟩
    · split at h
      · rename_i e; cases h; exact .inr (.inl ⟨rfl, e⟩)
      · exact .inr (.inr (.inr (.inr (.inr (decodeFrame_row h)))))
  | [a, b], h =>
    simp only [decodeWire] at h
    rw [if_neg (by simp), if_neg (by simp)] at h
    split at h
    · simp at h
    · rename_i e
      obtain rfl : a = escByte := by simpa using e
      split at h
      · rename_i e; cases h; exact .inr (.inr (.inl ⟨rfl, by rw [e]⟩))
      · split at h
        · rename_i e; cases h; exact .inr (.inr (.inr (.inl ⟨rfl, by rw [e]⟩)))
        · split at h
          · simp at h
          · cases h; exact .inr (.inr (.inr (.inr (.inl ⟨b, rfl, rfl⟩))))
  | a :: b :: c :: r, h =>
    rw [decodeWire_long (by simp)] at h
    exact .inr (.inr (.inr (.inr (.inr (decodeFrame_row h)))))

/-- The rows of the peer's messages and the bytes of each (R84). -/
theorem decodeFromPeer_row {t : CrcTable} {bs : Bytes} {i : Instr} (h : decode t .fromPeer bs = .row i) :
    (i = .ready ∧ bs = mkReady) ∨ ∃ idx seq p, i = .packet idx seq p ∧ bs = packetBytes idx seq p := by
  simp only [decode, decodeFromPeer] at h
  split at h
  · rename_i e; cases h; exact .inl ⟨rfl, e⟩
  · split at h
    · rename_i e
      obtain ⟨a, b, c, d, p, -, rfl, -⟩ := exists_packet e
      cases h
      exact .inr ⟨_, _, _, rfl, by simp [packetBytes]⟩
    · simp at h

/-- The length of a record (R83, R212). -/
theorem recordBytes_length (sec usec : Long) (payload : Bytes) :
    (recordBytes sec usec payload).length = 16 + payload.length := by
  simp only [recordBytes, recordHeaderBytes, lengthField, be32, be16, List.length_append, List.length_cons, List.length_nil]

/-- A record holds its payload after the 16 header bytes, and its timestamp in the first eight (R83). -/
theorem recordBytes_fields (sec usec : Long) (payload : Bytes) :
    (recordBytes sec usec payload).drop 16 = payload ∧ u32be (recordBytes sec usec payload) 0 = sec ∧
      u32be (recordBytes sec usec payload) 4 = usec := by
  obtain ⟨a, b, c, d, rfl⟩ := exists_join32 sec
  obtain ⟨e, f, g, h, rfl⟩ := exists_join32 usec
  simp [recordBytes, recordHeaderBytes, lengthField, be16]

/-- A record is never the global header: bytes 8 to 11 hold the length of what follows the sixteenth byte. -/
theorem recordBytes_ne_globalHeader (sec usec : Long) (payload : Bytes) :
    recordBytes sec usec payload ≠ globalHeaderBytes := by
  intro h
  have hl := congrArg List.length h
  rw [recordBytes_length] at hl
  have h8 : payload.length = 8 := by
    have : globalHeaderBytes.length = 24 := rfl
    omega
  obtain ⟨a, b, c, d, rfl⟩ := exists_join32 sec
  obtain ⟨e, f, g, k, rfl⟩ := exists_join32 usec
  have h11 := congrArg (fun l : Bytes => l[11]?) h
  simp [recordBytes, recordHeaderBytes, lengthField, be16, h8, lo8, globalHeaderBytes] at h11

end Sys2Proof
end

