-- ==== Sys2Proof/Laws/State.lean ====
section
/-! SUPPORT. For each named update of the state, what every field is after it: one lemma a field, true by unfolding the
update once, so that no later proof unfolds a record update. -/

namespace Sys2Proof.Machine

/-! ### leaveFrame -/

@[simp] theorem State.leaveFrame_phase (s : State) : s.leaveFrame.phase = s.phase := rfl
@[simp] theorem State.leaveFrame_channel (s : State) : s.leaveFrame.channel = s.channel := rfl
@[simp] theorem State.leaveFrame_expectedSeqNr (s : State) : s.leaveFrame.expectedSeqNr = s.expectedSeqNr := rfl
@[simp] theorem State.leaveFrame_lastIndex (s : State) : s.leaveFrame.lastIndex = s.lastIndex := rfl
@[simp] theorem State.leaveFrame_lastSeqNr (s : State) : s.leaveFrame.lastSeqNr = s.lastSeqNr := rfl
@[simp] theorem State.leaveFrame_unackedByteCount (s : State) : s.leaveFrame.unackedByteCount = s.unackedByteCount := rfl
@[simp] theorem State.leaveFrame_receiving (s : State) : s.leaveFrame.receiving = false := rfl
@[simp] theorem State.leaveFrame_rxBuf (s : State) : s.leaveFrame.rxBuf = [] := rfl
@[simp] theorem State.leaveFrame_hdrWritten (s : State) : s.leaveFrame.hdrWritten = s.hdrWritten := rfl
@[simp] theorem State.leaveFrame_fatal (s : State) : s.leaveFrame.fatal = s.fatal := rfl
@[simp] theorem State.leaveFrame_cfg (s : State) : s.leaveFrame.cfg = s.cfg := rfl
@[simp] theorem State.leaveFrame_inputs (s : State) : s.leaveFrame.inputs = s.inputs := rfl
@[simp] theorem State.leaveFrame_clock (s : State) : s.leaveFrame.clock = s.clock := rfl
@[simp] theorem State.leaveFrame_txDraws (s : State) : s.leaveFrame.txDraws = s.txDraws := rfl
@[simp] theorem State.leaveFrame_sinkDraws (s : State) : s.leaveFrame.sinkDraws = s.sinkDraws := rfl
@[simp] theorem State.leaveFrame_outputs (s : State) : s.leaveFrame.outputs = s.outputs := rfl
@[simp] theorem State.leaveFrame_result (s : State) : s.leaveFrame.result = s.result := rfl

/-! ### openFrame -/

@[simp] theorem State.openFrame_phase (s : State) : s.openFrame.phase = s.phase := rfl
@[simp] theorem State.openFrame_channel (s : State) : s.openFrame.channel = s.channel := rfl
@[simp] theorem State.openFrame_expectedSeqNr (s : State) : s.openFrame.expectedSeqNr = s.expectedSeqNr := rfl
@[simp] theorem State.openFrame_lastIndex (s : State) : s.openFrame.lastIndex = s.lastIndex := rfl
@[simp] theorem State.openFrame_lastSeqNr (s : State) : s.openFrame.lastSeqNr = s.lastSeqNr := rfl
@[simp] theorem State.openFrame_unackedByteCount (s : State) : s.openFrame.unackedByteCount = s.unackedByteCount := rfl
@[simp] theorem State.openFrame_receiving (s : State) : s.openFrame.receiving = true := rfl
@[simp] theorem State.openFrame_rxBuf (s : State) : s.openFrame.rxBuf = [] := rfl
@[simp] theorem State.openFrame_hdrWritten (s : State) : s.openFrame.hdrWritten = s.hdrWritten := rfl
@[simp] theorem State.openFrame_fatal (s : State) : s.openFrame.fatal = s.fatal := rfl
@[simp] theorem State.openFrame_cfg (s : State) : s.openFrame.cfg = s.cfg := rfl
@[simp] theorem State.openFrame_inputs (s : State) : s.openFrame.inputs = s.inputs := rfl
@[simp] theorem State.openFrame_clock (s : State) : s.openFrame.clock = s.clock := rfl
@[simp] theorem State.openFrame_txDraws (s : State) : s.openFrame.txDraws = s.txDraws := rfl
@[simp] theorem State.openFrame_sinkDraws (s : State) : s.openFrame.sinkDraws = s.sinkDraws := rfl
@[simp] theorem State.openFrame_outputs (s : State) : s.openFrame.outputs = s.outputs := rfl
@[simp] theorem State.openFrame_result (s : State) : s.openFrame.result = s.result := rfl

/-! ### markHeader -/

@[simp] theorem State.markHeader_phase (s : State) : s.markHeader.phase = s.phase := rfl
@[simp] theorem State.markHeader_channel (s : State) : s.markHeader.channel = s.channel := rfl
@[simp] theorem State.markHeader_expectedSeqNr (s : State) : s.markHeader.expectedSeqNr = s.expectedSeqNr := rfl
@[simp] theorem State.markHeader_lastIndex (s : State) : s.markHeader.lastIndex = s.lastIndex := rfl
@[simp] theorem State.markHeader_lastSeqNr (s : State) : s.markHeader.lastSeqNr = s.lastSeqNr := rfl
@[simp] theorem State.markHeader_unackedByteCount (s : State) : s.markHeader.unackedByteCount = s.unackedByteCount := rfl
@[simp] theorem State.markHeader_receiving (s : State) : s.markHeader.receiving = s.receiving := rfl
@[simp] theorem State.markHeader_rxBuf (s : State) : s.markHeader.rxBuf = s.rxBuf := rfl
@[simp] theorem State.markHeader_hdrWritten (s : State) : s.markHeader.hdrWritten = true := rfl
@[simp] theorem State.markHeader_fatal (s : State) : s.markHeader.fatal = s.fatal := rfl
@[simp] theorem State.markHeader_cfg (s : State) : s.markHeader.cfg = s.cfg := rfl
@[simp] theorem State.markHeader_inputs (s : State) : s.markHeader.inputs = s.inputs := rfl
@[simp] theorem State.markHeader_clock (s : State) : s.markHeader.clock = s.clock := rfl
@[simp] theorem State.markHeader_txDraws (s : State) : s.markHeader.txDraws = s.txDraws := rfl
@[simp] theorem State.markHeader_sinkDraws (s : State) : s.markHeader.sinkDraws = s.sinkDraws := rfl
@[simp] theorem State.markHeader_outputs (s : State) : s.markHeader.outputs = s.outputs := rfl
@[simp] theorem State.markHeader_result (s : State) : s.markHeader.result = s.result := rfl

/-! ### latchFatal -/

@[simp] theorem State.latchFatal_phase (s : State) : s.latchFatal.phase = .stopping := rfl
@[simp] theorem State.latchFatal_channel (s : State) : s.latchFatal.channel = s.channel := rfl
@[simp] theorem State.latchFatal_expectedSeqNr (s : State) : s.latchFatal.expectedSeqNr = s.expectedSeqNr := rfl
@[simp] theorem State.latchFatal_lastIndex (s : State) : s.latchFatal.lastIndex = s.lastIndex := rfl
@[simp] theorem State.latchFatal_lastSeqNr (s : State) : s.latchFatal.lastSeqNr = s.lastSeqNr := rfl
@[simp] theorem State.latchFatal_unackedByteCount (s : State) : s.latchFatal.unackedByteCount = s.unackedByteCount := rfl
@[simp] theorem State.latchFatal_receiving (s : State) : s.latchFatal.receiving = false := rfl
@[simp] theorem State.latchFatal_rxBuf (s : State) : s.latchFatal.rxBuf = [] := rfl
@[simp] theorem State.latchFatal_hdrWritten (s : State) : s.latchFatal.hdrWritten = s.hdrWritten := rfl
@[simp] theorem State.latchFatal_fatal (s : State) : s.latchFatal.fatal = true := rfl
@[simp] theorem State.latchFatal_cfg (s : State) : s.latchFatal.cfg = s.cfg := rfl
@[simp] theorem State.latchFatal_inputs (s : State) : s.latchFatal.inputs = s.inputs := rfl
@[simp] theorem State.latchFatal_clock (s : State) : s.latchFatal.clock = s.clock := rfl
@[simp] theorem State.latchFatal_txDraws (s : State) : s.latchFatal.txDraws = s.txDraws := rfl
@[simp] theorem State.latchFatal_sinkDraws (s : State) : s.latchFatal.sinkDraws = s.sinkDraws := rfl
@[simp] theorem State.latchFatal_outputs (s : State) : s.latchFatal.outputs = s.outputs := rfl
@[simp] theorem State.latchFatal_result (s : State) : s.latchFatal.result = s.result := rfl

/-! ### output -/

@[simp] theorem State.output_phase (s : State) (o : Output) : (s.output o).phase = s.phase := rfl
@[simp] theorem State.output_channel (s : State) (o : Output) : (s.output o).channel = s.channel := rfl
@[simp] theorem State.output_expectedSeqNr (s : State) (o : Output) : (s.output o).expectedSeqNr = s.expectedSeqNr := rfl
@[simp] theorem State.output_lastIndex (s : State) (o : Output) : (s.output o).lastIndex = s.lastIndex := rfl
@[simp] theorem State.output_lastSeqNr (s : State) (o : Output) : (s.output o).lastSeqNr = s.lastSeqNr := rfl
@[simp] theorem State.output_unackedByteCount (s : State) (o : Output) : (s.output o).unackedByteCount = s.unackedByteCount := rfl
@[simp] theorem State.output_receiving (s : State) (o : Output) : (s.output o).receiving = s.receiving := rfl
@[simp] theorem State.output_rxBuf (s : State) (o : Output) : (s.output o).rxBuf = s.rxBuf := rfl
@[simp] theorem State.output_hdrWritten (s : State) (o : Output) : (s.output o).hdrWritten = s.hdrWritten := rfl
@[simp] theorem State.output_fatal (s : State) (o : Output) : (s.output o).fatal = s.fatal := rfl
@[simp] theorem State.output_cfg (s : State) (o : Output) : (s.output o).cfg = s.cfg := rfl
@[simp] theorem State.output_inputs (s : State) (o : Output) : (s.output o).inputs = s.inputs := rfl
@[simp] theorem State.output_clock (s : State) (o : Output) : (s.output o).clock = s.clock := rfl
@[simp] theorem State.output_txDraws (s : State) (o : Output) : (s.output o).txDraws = s.txDraws := rfl
@[simp] theorem State.output_sinkDraws (s : State) (o : Output) : (s.output o).sinkDraws = s.sinkDraws := rfl
@[simp] theorem State.output_outputs (s : State) (o : Output) : (s.output o).outputs = s.outputs ++ [o] := rfl
@[simp] theorem State.output_result (s : State) (o : Output) : (s.output o).result = s.result := rfl

/-! ### warn -/

@[simp] theorem State.warn_phase (s : State) (w : Warning) : (s.warn w).phase = s.phase := rfl
@[simp] theorem State.warn_channel (s : State) (w : Warning) : (s.warn w).channel = s.channel := rfl
@[simp] theorem State.warn_expectedSeqNr (s : State) (w : Warning) : (s.warn w).expectedSeqNr = s.expectedSeqNr := rfl
@[simp] theorem State.warn_lastIndex (s : State) (w : Warning) : (s.warn w).lastIndex = s.lastIndex := rfl
@[simp] theorem State.warn_lastSeqNr (s : State) (w : Warning) : (s.warn w).lastSeqNr = s.lastSeqNr := rfl
@[simp] theorem State.warn_unackedByteCount (s : State) (w : Warning) : (s.warn w).unackedByteCount = s.unackedByteCount := rfl
@[simp] theorem State.warn_receiving (s : State) (w : Warning) : (s.warn w).receiving = s.receiving := rfl
@[simp] theorem State.warn_rxBuf (s : State) (w : Warning) : (s.warn w).rxBuf = s.rxBuf := rfl
@[simp] theorem State.warn_hdrWritten (s : State) (w : Warning) : (s.warn w).hdrWritten = s.hdrWritten := rfl
@[simp] theorem State.warn_fatal (s : State) (w : Warning) : (s.warn w).fatal = s.fatal := rfl
@[simp] theorem State.warn_cfg (s : State) (w : Warning) : (s.warn w).cfg = s.cfg := rfl
@[simp] theorem State.warn_inputs (s : State) (w : Warning) : (s.warn w).inputs = s.inputs := rfl
@[simp] theorem State.warn_clock (s : State) (w : Warning) : (s.warn w).clock = s.clock := rfl
@[simp] theorem State.warn_txDraws (s : State) (w : Warning) : (s.warn w).txDraws = s.txDraws := rfl
@[simp] theorem State.warn_sinkDraws (s : State) (w : Warning) : (s.warn w).sinkDraws = s.sinkDraws := rfl
@[simp] theorem State.warn_outputs (s : State) (w : Warning) : (s.warn w).outputs = s.outputs ++ [.warn w] := rfl
@[simp] theorem State.warn_result (s : State) (w : Warning) : (s.warn w).result = s.result := rfl

/-! ### signal -/

@[simp] theorem State.signal_phase (s : State) (g : Signal) : (s.signal g).phase = s.phase := rfl
@[simp] theorem State.signal_channel (s : State) (g : Signal) : (s.signal g).channel = s.channel := rfl
@[simp] theorem State.signal_expectedSeqNr (s : State) (g : Signal) : (s.signal g).expectedSeqNr = s.expectedSeqNr := rfl
@[simp] theorem State.signal_lastIndex (s : State) (g : Signal) : (s.signal g).lastIndex = s.lastIndex := rfl
@[simp] theorem State.signal_lastSeqNr (s : State) (g : Signal) : (s.signal g).lastSeqNr = s.lastSeqNr := rfl
@[simp] theorem State.signal_unackedByteCount (s : State) (g : Signal) : (s.signal g).unackedByteCount = s.unackedByteCount := rfl
@[simp] theorem State.signal_receiving (s : State) (g : Signal) : (s.signal g).receiving = s.receiving := rfl
@[simp] theorem State.signal_rxBuf (s : State) (g : Signal) : (s.signal g).rxBuf = s.rxBuf := rfl
@[simp] theorem State.signal_hdrWritten (s : State) (g : Signal) : (s.signal g).hdrWritten = s.hdrWritten := rfl
@[simp] theorem State.signal_fatal (s : State) (g : Signal) : (s.signal g).fatal = s.fatal := rfl
@[simp] theorem State.signal_cfg (s : State) (g : Signal) : (s.signal g).cfg = s.cfg := rfl
@[simp] theorem State.signal_inputs (s : State) (g : Signal) : (s.signal g).inputs = s.inputs := rfl
@[simp] theorem State.signal_clock (s : State) (g : Signal) : (s.signal g).clock = s.clock := rfl
@[simp] theorem State.signal_txDraws (s : State) (g : Signal) : (s.signal g).txDraws = s.txDraws := rfl
@[simp] theorem State.signal_sinkDraws (s : State) (g : Signal) : (s.signal g).sinkDraws = s.sinkDraws := rfl
@[simp] theorem State.signal_outputs (s : State) (g : Signal) : (s.signal g).outputs = s.outputs ++ [.signal g] := rfl
@[simp] theorem State.signal_result (s : State) (g : Signal) : (s.signal g).result = s.result := rfl

/-! ### useDraw -/

@[simp] theorem State.useDraw_phase (s : State) (c : Chan) : (s.useDraw c).phase = s.phase := by cases c <;> rfl
@[simp] theorem State.useDraw_channel (s : State) (c : Chan) : (s.useDraw c).channel = s.channel := by cases c <;> rfl
@[simp] theorem State.useDraw_expectedSeqNr (s : State) (c : Chan) : (s.useDraw c).expectedSeqNr = s.expectedSeqNr := by cases c <;> rfl
@[simp] theorem State.useDraw_lastIndex (s : State) (c : Chan) : (s.useDraw c).lastIndex = s.lastIndex := by cases c <;> rfl
@[simp] theorem State.useDraw_lastSeqNr (s : State) (c : Chan) : (s.useDraw c).lastSeqNr = s.lastSeqNr := by cases c <;> rfl
@[simp] theorem State.useDraw_unackedByteCount (s : State) (c : Chan) : (s.useDraw c).unackedByteCount = s.unackedByteCount := by cases c <;> rfl
@[simp] theorem State.useDraw_receiving (s : State) (c : Chan) : (s.useDraw c).receiving = s.receiving := by cases c <;> rfl
@[simp] theorem State.useDraw_rxBuf (s : State) (c : Chan) : (s.useDraw c).rxBuf = s.rxBuf := by cases c <;> rfl
@[simp] theorem State.useDraw_hdrWritten (s : State) (c : Chan) : (s.useDraw c).hdrWritten = s.hdrWritten := by cases c <;> rfl
@[simp] theorem State.useDraw_fatal (s : State) (c : Chan) : (s.useDraw c).fatal = s.fatal := by cases c <;> rfl
@[simp] theorem State.useDraw_cfg (s : State) (c : Chan) : (s.useDraw c).cfg = s.cfg := by cases c <;> rfl
@[simp] theorem State.useDraw_inputs (s : State) (c : Chan) : (s.useDraw c).inputs = s.inputs := by cases c <;> rfl
@[simp] theorem State.useDraw_clock (s : State) (c : Chan) : (s.useDraw c).clock = s.clock := by cases c <;> rfl
@[simp] theorem State.useDraw_outputs (s : State) (c : Chan) : (s.useDraw c).outputs = s.outputs := by cases c <;> rfl
@[simp] theorem State.useDraw_result (s : State) (c : Chan) : (s.useDraw c).result = s.result := by cases c <;> rfl

/-! ### attempt -/

@[simp] theorem State.attempt_phase (s : State) (c : Chan) (b : Bytes) : (s.attempt c b).phase = s.phase := by cases c <;> rfl
@[simp] theorem State.attempt_channel (s : State) (c : Chan) (b : Bytes) : (s.attempt c b).channel = s.channel := by cases c <;> rfl
@[simp] theorem State.attempt_expectedSeqNr (s : State) (c : Chan) (b : Bytes) : (s.attempt c b).expectedSeqNr = s.expectedSeqNr := by cases c <;> rfl
@[simp] theorem State.attempt_lastIndex (s : State) (c : Chan) (b : Bytes) : (s.attempt c b).lastIndex = s.lastIndex := by cases c <;> rfl
@[simp] theorem State.attempt_lastSeqNr (s : State) (c : Chan) (b : Bytes) : (s.attempt c b).lastSeqNr = s.lastSeqNr := by cases c <;> rfl
@[simp] theorem State.attempt_unackedByteCount (s : State) (c : Chan) (b : Bytes) : (s.attempt c b).unackedByteCount = s.unackedByteCount := by cases c <;> rfl
@[simp] theorem State.attempt_receiving (s : State) (c : Chan) (b : Bytes) : (s.attempt c b).receiving = s.receiving := by cases c <;> rfl
@[simp] theorem State.attempt_rxBuf (s : State) (c : Chan) (b : Bytes) : (s.attempt c b).rxBuf = s.rxBuf := by cases c <;> rfl
@[simp] theorem State.attempt_hdrWritten (s : State) (c : Chan) (b : Bytes) : (s.attempt c b).hdrWritten = s.hdrWritten := by cases c <;> rfl
@[simp] theorem State.attempt_fatal (s : State) (c : Chan) (b : Bytes) : (s.attempt c b).fatal = s.fatal := by cases c <;> rfl
@[simp] theorem State.attempt_cfg (s : State) (c : Chan) (b : Bytes) : (s.attempt c b).cfg = s.cfg := by cases c <;> rfl
@[simp] theorem State.attempt_inputs (s : State) (c : Chan) (b : Bytes) : (s.attempt c b).inputs = s.inputs := by cases c <;> rfl
@[simp] theorem State.attempt_clock (s : State) (c : Chan) (b : Bytes) : (s.attempt c b).clock = s.clock := by cases c <;> rfl
@[simp] theorem State.attempt_outputs (s : State) (c : Chan) (b : Bytes) : (s.attempt c b).outputs = s.outputs ++ [.emission c b (s.status c)] := by cases c <;> rfl
@[simp] theorem State.attempt_result (s : State) (c : Chan) (b : Bytes) : (s.attempt c b).result = s.result := by cases c <;> rfl

/-! ### connect -/

@[simp] theorem connect_phase (s : State) : (connect s).phase = .connected := rfl
@[simp] theorem connect_channel (s : State) : (connect s).channel = s.channel := rfl
@[simp] theorem connect_expectedSeqNr (s : State) : (connect s).expectedSeqNr = seqFirst := rfl
@[simp] theorem connect_lastIndex (s : State) : (connect s).lastIndex = 0 := rfl
@[simp] theorem connect_lastSeqNr (s : State) : (connect s).lastSeqNr = seqNone := rfl
@[simp] theorem connect_unackedByteCount (s : State) : (connect s).unackedByteCount = 0 := rfl
@[simp] theorem connect_receiving (s : State) : (connect s).receiving = false := rfl
@[simp] theorem connect_rxBuf (s : State) : (connect s).rxBuf = [] := rfl
@[simp] theorem connect_hdrWritten (s : State) : (connect s).hdrWritten = s.hdrWritten := rfl
@[simp] theorem connect_fatal (s : State) : (connect s).fatal = s.fatal := rfl
@[simp] theorem connect_cfg (s : State) : (connect s).cfg = s.cfg := rfl
@[simp] theorem connect_inputs (s : State) : (connect s).inputs = s.inputs := rfl
@[simp] theorem connect_clock (s : State) : (connect s).clock = s.clock := rfl
@[simp] theorem connect_txDraws (s : State) : (connect s).txDraws = s.txDraws := rfl
@[simp] theorem connect_sinkDraws (s : State) : (connect s).sinkDraws = s.sinkDraws := rfl
@[simp] theorem connect_outputs (s : State) : (connect s).outputs = s.outputs := rfl
@[simp] theorem connect_result (s : State) : (connect s).result = s.result := rfl

/-! ### peerReset -/

@[simp] theorem peerReset_phase (s : State) : (peerReset s).phase = .connecting := rfl
@[simp] theorem peerReset_channel (s : State) : (peerReset s).channel = s.channel := rfl
@[simp] theorem peerReset_expectedSeqNr (s : State) : (peerReset s).expectedSeqNr = s.expectedSeqNr := rfl
@[simp] theorem peerReset_lastIndex (s : State) : (peerReset s).lastIndex = s.lastIndex := rfl
@[simp] theorem peerReset_lastSeqNr (s : State) : (peerReset s).lastSeqNr = s.lastSeqNr := rfl
@[simp] theorem peerReset_unackedByteCount (s : State) : (peerReset s).unackedByteCount = s.unackedByteCount := rfl
@[simp] theorem peerReset_receiving (s : State) : (peerReset s).receiving = s.receiving := rfl
@[simp] theorem peerReset_rxBuf (s : State) : (peerReset s).rxBuf = s.rxBuf := rfl
@[simp] theorem peerReset_hdrWritten (s : State) : (peerReset s).hdrWritten = s.hdrWritten := rfl
@[simp] theorem peerReset_fatal (s : State) : (peerReset s).fatal = s.fatal := rfl
@[simp] theorem peerReset_cfg (s : State) : (peerReset s).cfg = s.cfg := rfl
@[simp] theorem peerReset_inputs (s : State) : (peerReset s).inputs = s.inputs := rfl
@[simp] theorem peerReset_clock (s : State) : (peerReset s).clock = s.clock := rfl
@[simp] theorem peerReset_txDraws (s : State) : (peerReset s).txDraws = s.txDraws := rfl
@[simp] theorem peerReset_sinkDraws (s : State) : (peerReset s).sinkDraws = s.sinkDraws := rfl
@[simp] theorem peerReset_outputs (s : State) : (peerReset s).outputs = s.outputs ++ [.signal .peerReset] := rfl
@[simp] theorem peerReset_result (s : State) : (peerReset s).result = s.result := rfl

/-! ### countBytes -/

@[simp] theorem State.countBytes_phase (s : State) (n : Nat) : (s.countBytes n).phase = s.phase := rfl
@[simp] theorem State.countBytes_channel (s : State) (n : Nat) : (s.countBytes n).channel = s.channel := rfl
@[simp] theorem State.countBytes_expectedSeqNr (s : State) (n : Nat) : (s.countBytes n).expectedSeqNr = s.expectedSeqNr := rfl
@[simp] theorem State.countBytes_lastIndex (s : State) (n : Nat) : (s.countBytes n).lastIndex = s.lastIndex := rfl
@[simp] theorem State.countBytes_lastSeqNr (s : State) (n : Nat) : (s.countBytes n).lastSeqNr = s.lastSeqNr := rfl
@[simp] theorem State.countBytes_unackedByteCount (s : State) (n : Nat) : (s.countBytes n).unackedByteCount = s.unackedByteCount + n := rfl
@[simp] theorem State.countBytes_receiving (s : State) (n : Nat) : (s.countBytes n).receiving = s.receiving := rfl
@[simp] theorem State.countBytes_rxBuf (s : State) (n : Nat) : (s.countBytes n).rxBuf = s.rxBuf := rfl
@[simp] theorem State.countBytes_hdrWritten (s : State) (n : Nat) : (s.countBytes n).hdrWritten = s.hdrWritten := rfl
@[simp] theorem State.countBytes_fatal (s : State) (n : Nat) : (s.countBytes n).fatal = s.fatal := rfl
@[simp] theorem State.countBytes_cfg (s : State) (n : Nat) : (s.countBytes n).cfg = s.cfg := rfl
@[simp] theorem State.countBytes_inputs (s : State) (n : Nat) : (s.countBytes n).inputs = s.inputs := rfl
@[simp] theorem State.countBytes_clock (s : State) (n : Nat) : (s.countBytes n).clock = s.clock := rfl
@[simp] theorem State.countBytes_txDraws (s : State) (n : Nat) : (s.countBytes n).txDraws = s.txDraws := rfl
@[simp] theorem State.countBytes_sinkDraws (s : State) (n : Nat) : (s.countBytes n).sinkDraws = s.sinkDraws := rfl
@[simp] theorem State.countBytes_outputs (s : State) (n : Nat) : (s.countBytes n).outputs = s.outputs := rfl
@[simp] theorem State.countBytes_result (s : State) (n : Nat) : (s.countBytes n).result = s.result := rfl

/-! ### clearCount -/

@[simp] theorem State.clearCount_phase (s : State) : s.clearCount.phase = s.phase := rfl
@[simp] theorem State.clearCount_channel (s : State) : s.clearCount.channel = s.channel := rfl
@[simp] theorem State.clearCount_expectedSeqNr (s : State) : s.clearCount.expectedSeqNr = s.expectedSeqNr := rfl
@[simp] theorem State.clearCount_lastIndex (s : State) : s.clearCount.lastIndex = s.lastIndex := rfl
@[simp] theorem State.clearCount_lastSeqNr (s : State) : s.clearCount.lastSeqNr = s.lastSeqNr := rfl
@[simp] theorem State.clearCount_unackedByteCount (s : State) : s.clearCount.unackedByteCount = 0 := rfl
@[simp] theorem State.clearCount_receiving (s : State) : s.clearCount.receiving = s.receiving := rfl
@[simp] theorem State.clearCount_rxBuf (s : State) : s.clearCount.rxBuf = s.rxBuf := rfl
@[simp] theorem State.clearCount_hdrWritten (s : State) : s.clearCount.hdrWritten = s.hdrWritten := rfl
@[simp] theorem State.clearCount_fatal (s : State) : s.clearCount.fatal = s.fatal := rfl
@[simp] theorem State.clearCount_cfg (s : State) : s.clearCount.cfg = s.cfg := rfl
@[simp] theorem State.clearCount_inputs (s : State) : s.clearCount.inputs = s.inputs := rfl
@[simp] theorem State.clearCount_clock (s : State) : s.clearCount.clock = s.clock := rfl
@[simp] theorem State.clearCount_txDraws (s : State) : s.clearCount.txDraws = s.txDraws := rfl
@[simp] theorem State.clearCount_sinkDraws (s : State) : s.clearCount.sinkDraws = s.sinkDraws := rfl
@[simp] theorem State.clearCount_outputs (s : State) : s.clearCount.outputs = s.outputs := rfl
@[simp] theorem State.clearCount_result (s : State) : s.clearCount.result = s.result := rfl

/-! ### acceptPacket -/

@[simp] theorem State.acceptPacket_phase (s : State) (i q : Half) : (s.acceptPacket i q).phase = s.phase := rfl
@[simp] theorem State.acceptPacket_channel (s : State) (i q : Half) : (s.acceptPacket i q).channel = s.channel := rfl
@[simp] theorem State.acceptPacket_expectedSeqNr (s : State) (i q : Half) : (s.acceptPacket i q).expectedSeqNr = seqNext s.expectedSeqNr := rfl
@[simp] theorem State.acceptPacket_lastIndex (s : State) (i q : Half) : (s.acceptPacket i q).lastIndex = i := rfl
@[simp] theorem State.acceptPacket_lastSeqNr (s : State) (i q : Half) : (s.acceptPacket i q).lastSeqNr = q := rfl
@[simp] theorem State.acceptPacket_unackedByteCount (s : State) (i q : Half) : (s.acceptPacket i q).unackedByteCount = s.unackedByteCount := rfl
@[simp] theorem State.acceptPacket_receiving (s : State) (i q : Half) : (s.acceptPacket i q).receiving = s.receiving := rfl
@[simp] theorem State.acceptPacket_rxBuf (s : State) (i q : Half) : (s.acceptPacket i q).rxBuf = s.rxBuf := rfl
@[simp] theorem State.acceptPacket_hdrWritten (s : State) (i q : Half) : (s.acceptPacket i q).hdrWritten = s.hdrWritten := rfl
@[simp] theorem State.acceptPacket_fatal (s : State) (i q : Half) : (s.acceptPacket i q).fatal = s.fatal := rfl
@[simp] theorem State.acceptPacket_cfg (s : State) (i q : Half) : (s.acceptPacket i q).cfg = s.cfg := rfl
@[simp] theorem State.acceptPacket_inputs (s : State) (i q : Half) : (s.acceptPacket i q).inputs = s.inputs := rfl
@[simp] theorem State.acceptPacket_clock (s : State) (i q : Half) : (s.acceptPacket i q).clock = s.clock := rfl
@[simp] theorem State.acceptPacket_txDraws (s : State) (i q : Half) : (s.acceptPacket i q).txDraws = s.txDraws := rfl
@[simp] theorem State.acceptPacket_sinkDraws (s : State) (i q : Half) : (s.acceptPacket i q).sinkDraws = s.sinkDraws := rfl
@[simp] theorem State.acceptPacket_outputs (s : State) (i q : Half) : (s.acceptPacket i q).outputs = s.outputs := rfl
@[simp] theorem State.acceptPacket_result (s : State) (i q : Half) : (s.acceptPacket i q).result = s.result := rfl

/-! ### beginConnect -/

@[simp] theorem State.beginConnect_phase (s : State) (ch : Byte) : (s.beginConnect ch).phase = .connecting := rfl
@[simp] theorem State.beginConnect_channel (s : State) (ch : Byte) : (s.beginConnect ch).channel = ch := rfl
@[simp] theorem State.beginConnect_expectedSeqNr (s : State) (ch : Byte) : (s.beginConnect ch).expectedSeqNr = s.expectedSeqNr := rfl
@[simp] theorem State.beginConnect_lastIndex (s : State) (ch : Byte) : (s.beginConnect ch).lastIndex = s.lastIndex := rfl
@[simp] theorem State.beginConnect_lastSeqNr (s : State) (ch : Byte) : (s.beginConnect ch).lastSeqNr = s.lastSeqNr := rfl
@[simp] theorem State.beginConnect_unackedByteCount (s : State) (ch : Byte) : (s.beginConnect ch).unackedByteCount = s.unackedByteCount := rfl
@[simp] theorem State.beginConnect_receiving (s : State) (ch : Byte) : (s.beginConnect ch).receiving = false := rfl
@[simp] theorem State.beginConnect_rxBuf (s : State) (ch : Byte) : (s.beginConnect ch).rxBuf = [] := rfl
@[simp] theorem State.beginConnect_hdrWritten (s : State) (ch : Byte) : (s.beginConnect ch).hdrWritten = s.hdrWritten := rfl
@[simp] theorem State.beginConnect_fatal (s : State) (ch : Byte) : (s.beginConnect ch).fatal = s.fatal := rfl
@[simp] theorem State.beginConnect_cfg (s : State) (ch : Byte) : (s.beginConnect ch).cfg = s.cfg := rfl
@[simp] theorem State.beginConnect_inputs (s : State) (ch : Byte) : (s.beginConnect ch).inputs = s.inputs := rfl
@[simp] theorem State.beginConnect_clock (s : State) (ch : Byte) : (s.beginConnect ch).clock = s.clock := rfl
@[simp] theorem State.beginConnect_txDraws (s : State) (ch : Byte) : (s.beginConnect ch).txDraws = s.txDraws := rfl
@[simp] theorem State.beginConnect_sinkDraws (s : State) (ch : Byte) : (s.beginConnect ch).sinkDraws = s.sinkDraws := rfl
@[simp] theorem State.beginConnect_outputs (s : State) (ch : Byte) : (s.beginConnect ch).outputs = s.outputs := rfl
@[simp] theorem State.beginConnect_result (s : State) (ch : Byte) : (s.beginConnect ch).result = s.result := rfl

/-! ### endSession -/

@[simp] theorem State.endSession_phase (s : State) : s.endSession.phase = .stopping := rfl
@[simp] theorem State.endSession_channel (s : State) : s.endSession.channel = s.channel := rfl
@[simp] theorem State.endSession_expectedSeqNr (s : State) : s.endSession.expectedSeqNr = s.expectedSeqNr := rfl
@[simp] theorem State.endSession_lastIndex (s : State) : s.endSession.lastIndex = s.lastIndex := rfl
@[simp] theorem State.endSession_lastSeqNr (s : State) : s.endSession.lastSeqNr = s.lastSeqNr := rfl
@[simp] theorem State.endSession_unackedByteCount (s : State) : s.endSession.unackedByteCount = s.unackedByteCount := rfl
@[simp] theorem State.endSession_receiving (s : State) : s.endSession.receiving = false := rfl
@[simp] theorem State.endSession_rxBuf (s : State) : s.endSession.rxBuf = [] := rfl
@[simp] theorem State.endSession_hdrWritten (s : State) : s.endSession.hdrWritten = s.hdrWritten := rfl
@[simp] theorem State.endSession_fatal (s : State) : s.endSession.fatal = s.fatal := rfl
@[simp] theorem State.endSession_cfg (s : State) : s.endSession.cfg = s.cfg := rfl
@[simp] theorem State.endSession_inputs (s : State) : s.endSession.inputs = s.inputs := rfl
@[simp] theorem State.endSession_clock (s : State) : s.endSession.clock = s.clock := rfl
@[simp] theorem State.endSession_txDraws (s : State) : s.endSession.txDraws = s.txDraws := rfl
@[simp] theorem State.endSession_sinkDraws (s : State) : s.endSession.sinkDraws = s.sinkDraws := rfl
@[simp] theorem State.endSession_outputs (s : State) : s.endSession.outputs = s.outputs := rfl
@[simp] theorem State.endSession_result (s : State) : s.endSession.result = s.result := rfl

/-! ### setResult -/

@[simp] theorem State.setResult_phase (s : State) (r : OpResult) : (s.setResult r).phase = s.phase := rfl
@[simp] theorem State.setResult_channel (s : State) (r : OpResult) : (s.setResult r).channel = s.channel := rfl
@[simp] theorem State.setResult_expectedSeqNr (s : State) (r : OpResult) : (s.setResult r).expectedSeqNr = s.expectedSeqNr := rfl
@[simp] theorem State.setResult_lastIndex (s : State) (r : OpResult) : (s.setResult r).lastIndex = s.lastIndex := rfl
@[simp] theorem State.setResult_lastSeqNr (s : State) (r : OpResult) : (s.setResult r).lastSeqNr = s.lastSeqNr := rfl
@[simp] theorem State.setResult_unackedByteCount (s : State) (r : OpResult) : (s.setResult r).unackedByteCount = s.unackedByteCount := rfl
@[simp] theorem State.setResult_receiving (s : State) (r : OpResult) : (s.setResult r).receiving = s.receiving := rfl
@[simp] theorem State.setResult_rxBuf (s : State) (r : OpResult) : (s.setResult r).rxBuf = s.rxBuf := rfl
@[simp] theorem State.setResult_hdrWritten (s : State) (r : OpResult) : (s.setResult r).hdrWritten = s.hdrWritten := rfl
@[simp] theorem State.setResult_fatal (s : State) (r : OpResult) : (s.setResult r).fatal = s.fatal := rfl
@[simp] theorem State.setResult_cfg (s : State) (r : OpResult) : (s.setResult r).cfg = s.cfg := rfl
@[simp] theorem State.setResult_inputs (s : State) (r : OpResult) : (s.setResult r).inputs = s.inputs := rfl
@[simp] theorem State.setResult_clock (s : State) (r : OpResult) : (s.setResult r).clock = s.clock := rfl
@[simp] theorem State.setResult_txDraws (s : State) (r : OpResult) : (s.setResult r).txDraws = s.txDraws := rfl
@[simp] theorem State.setResult_sinkDraws (s : State) (r : OpResult) : (s.setResult r).sinkDraws = s.sinkDraws := rfl
@[simp] theorem State.setResult_outputs (s : State) (r : OpResult) : (s.setResult r).outputs = s.outputs := rfl
@[simp] theorem State.setResult_result (s : State) (r : OpResult) : (s.setResult r).result = r := rfl

/-! ### takeInput -/

@[simp] theorem State.takeInput_phase (s : State) (x : Input) (rest : List Input) : (s.takeInput x rest).phase = s.phase := rfl
@[simp] theorem State.takeInput_channel (s : State) (x : Input) (rest : List Input) : (s.takeInput x rest).channel = s.channel := rfl
@[simp] theorem State.takeInput_expectedSeqNr (s : State) (x : Input) (rest : List Input) : (s.takeInput x rest).expectedSeqNr = s.expectedSeqNr := rfl
@[simp] theorem State.takeInput_lastIndex (s : State) (x : Input) (rest : List Input) : (s.takeInput x rest).lastIndex = s.lastIndex := rfl
@[simp] theorem State.takeInput_lastSeqNr (s : State) (x : Input) (rest : List Input) : (s.takeInput x rest).lastSeqNr = s.lastSeqNr := rfl
@[simp] theorem State.takeInput_unackedByteCount (s : State) (x : Input) (rest : List Input) : (s.takeInput x rest).unackedByteCount = s.unackedByteCount := rfl
@[simp] theorem State.takeInput_receiving (s : State) (x : Input) (rest : List Input) : (s.takeInput x rest).receiving = s.receiving := rfl
@[simp] theorem State.takeInput_rxBuf (s : State) (x : Input) (rest : List Input) : (s.takeInput x rest).rxBuf = s.rxBuf := rfl
@[simp] theorem State.takeInput_hdrWritten (s : State) (x : Input) (rest : List Input) : (s.takeInput x rest).hdrWritten = s.hdrWritten := rfl
@[simp] theorem State.takeInput_fatal (s : State) (x : Input) (rest : List Input) : (s.takeInput x rest).fatal = s.fatal := rfl
@[simp] theorem State.takeInput_cfg (s : State) (x : Input) (rest : List Input) : (s.takeInput x rest).cfg = s.cfg := rfl
@[simp] theorem State.takeInput_inputs (s : State) (x : Input) (rest : List Input) : (s.takeInput x rest).inputs = rest := rfl
@[simp] theorem State.takeInput_clock (s : State) (x : Input) (rest : List Input) : (s.takeInput x rest).clock = x.clock := rfl
@[simp] theorem State.takeInput_txDraws (s : State) (x : Input) (rest : List Input) : (s.takeInput x rest).txDraws = x.txDraws := rfl
@[simp] theorem State.takeInput_sinkDraws (s : State) (x : Input) (rest : List Input) : (s.takeInput x rest).sinkDraws = x.sinkDraws := rfl
@[simp] theorem State.takeInput_outputs (s : State) (x : Input) (rest : List Input) : (s.takeInput x rest).outputs = s.outputs := rfl
@[simp] theorem State.takeInput_result (s : State) (x : Input) (rest : List Input) : (s.takeInput x rest).result = s.result := rfl

/-! ### resetState -/

@[simp] theorem resetState_phase (s : State) : (resetState s).phase = .stopping := rfl
@[simp] theorem resetState_channel (s : State) : (resetState s).channel = 0 := rfl
@[simp] theorem resetState_expectedSeqNr (s : State) : (resetState s).expectedSeqNr = 0 := rfl
@[simp] theorem resetState_lastIndex (s : State) : (resetState s).lastIndex = 0 := rfl
@[simp] theorem resetState_lastSeqNr (s : State) : (resetState s).lastSeqNr = 0 := rfl
@[simp] theorem resetState_unackedByteCount (s : State) : (resetState s).unackedByteCount = 0 := rfl
@[simp] theorem resetState_receiving (s : State) : (resetState s).receiving = false := rfl
@[simp] theorem resetState_rxBuf (s : State) : (resetState s).rxBuf = [] := rfl
@[simp] theorem resetState_hdrWritten (s : State) : (resetState s).hdrWritten = false := rfl
@[simp] theorem resetState_fatal (s : State) : (resetState s).fatal = false := rfl
@[simp] theorem resetState_cfg (s : State) : (resetState s).cfg = s.cfg := rfl
@[simp] theorem resetState_inputs (s : State) : (resetState s).inputs = s.inputs := rfl
@[simp] theorem resetState_clock (s : State) : (resetState s).clock = s.clock := rfl
@[simp] theorem resetState_txDraws (s : State) : (resetState s).txDraws = s.txDraws := rfl
@[simp] theorem resetState_sinkDraws (s : State) : (resetState s).sinkDraws = s.sinkDraws := rfl
@[simp] theorem resetState_outputs (s : State) : (resetState s).outputs = [] := rfl
@[simp] theorem resetState_result (s : State) : (resetState s).result = .none := rfl

@[simp] theorem State.useDraw_tx_txDraws (s : State) : (s.useDraw .tx).txDraws = s.txDraws.tail := rfl
@[simp] theorem State.useDraw_tx_sinkDraws (s : State) : (s.useDraw .tx).sinkDraws = s.sinkDraws := rfl
@[simp] theorem State.useDraw_sink_txDraws (s : State) : (s.useDraw .sink).txDraws = s.txDraws := rfl
@[simp] theorem State.useDraw_sink_sinkDraws (s : State) : (s.useDraw .sink).sinkDraws = s.sinkDraws.tail := rfl
@[simp] theorem State.attempt_tx_txDraws (s : State) (b : Bytes) : (s.attempt .tx b).txDraws = s.txDraws.tail := rfl
@[simp] theorem State.attempt_tx_sinkDraws (s : State) (b : Bytes) : (s.attempt .tx b).sinkDraws = s.sinkDraws := rfl
@[simp] theorem State.attempt_sink_txDraws (s : State) (b : Bytes) : (s.attempt .sink b).txDraws = s.txDraws := rfl
@[simp] theorem State.attempt_sink_sinkDraws (s : State) (b : Bytes) : (s.attempt .sink b).sinkDraws = s.sinkDraws.tail := rfl

/-- A quiet DECODE leaves the state as it is. -/
@[simp] theorem State.warnUnlessQuiet_quiet (s : State) (w : Option Warning) : s.warnUnlessQuiet true w = s := by
  cases w <;> rfl
@[simp] theorem State.warnUnlessQuiet_none (s : State) (q : Bool) : s.warnUnlessQuiet q none = s := by cases q <;> rfl
@[simp] theorem State.warnUnlessQuiet_some (s : State) (w : Warning) : s.warnUnlessQuiet false (some w) = s.warn w := rfl

end Sys2Proof.Machine
end

