-- ==== Sys2Proof/Laws/Ops.lean ====
section
/-! SUPPORT. What the shared operations can do, said once each: sequencing, the event guard, MemWrite and its two
outcomes, the fatal path, the append to the receive buffer. -/

namespace Sys2Proof.Machine

open Host (Outcome)

/-! ### Sequencing -/

@[simp] theorem Flow.andThen_go (s : State) (k : State → Flow) : (Flow.go s).andThen k = k s := rfl
@[simp] theorem Flow.andThen_dead (s : State) (k : State → Flow) : (Flow.dead s).andThen k = .dead s := rfl
@[simp] theorem Flow.andThen_refuse (r : Refusal) (k : State → Flow) : (Flow.refuse r).andThen k = .refuse r := rfl
@[simp] theorem Flow.outcome_go (s : State) : (Flow.go s).outcome = .next s := rfl
@[simp] theorem Flow.outcome_dead (s : State) : (Flow.dead s).outcome = .next s := rfl
@[simp] theorem Flow.outcome_refuse (r : Refusal) : (Flow.refuse r).outcome = .refused r := rfl

/-- A rule answers a next state when it ran on or was abandoned by FatalIO. -/
theorem Flow.outcome_next {f : Flow} {t : State} (h : f.outcome = .next t) : f = .go t ∨ f = .dead t := by
  cases f <;> simp [Flow.outcome] at h <;> simp [h]

/-- Two rules in sequence: the first ran on and the second answers, or FatalIO ran in the first. -/
theorem Flow.andThen_go_iff {f : Flow} {k : State → Flow} {t : State} :
    f.andThen k = .go t ↔ ∃ s, f = .go s ∧ k s = .go t := by
  cases f <;> simp

theorem Flow.andThen_dead_iff {f : Flow} {k : State → Flow} {t : State} :
    f.andThen k = .dead t ↔ f = .dead t ∨ ∃ s, f = .go s ∧ k s = .dead t := by
  cases f <;> simp

/-- An event in a live session is its rule (R250). -/
theorem runEvent_live {s : State} (h : s.fatal = false) (rule : State → Flow) : runEvent s rule = (rule s).outcome := by
  simp [runEvent, h]

/-- An event after a fatal error is refused (R250). -/
theorem runEvent_fatal {s : State} (h : s.fatal = true) (rule : State → Flow) :
    runEvent s rule = .refused .eventWhileFatal := by
  simp [runEvent, h]

/-- An event that answers a next state ran in a live session. -/
theorem runEvent_next {s t : State} {rule : State → Flow} (h : runEvent s rule = .next t) :
    s.fatal = false ∧ (rule s = .go t ∨ rule s = .dead t) := by
  unfold runEvent at h
  split at h
  · cases h
  · rename_i hf
    exact ⟨by simpa using hf, Flow.outcome_next h⟩

/-! ### Emissions -/

@[simp] theorem State.status_tx (s : State) : s.status .tx = s.txDraws.headD .ok := rfl
@[simp] theorem State.status_sink (s : State) : s.status .sink = s.sinkDraws.headD .ok := rfl

/-- A write whose status is `ok` (R62). -/
theorem memWrite_ok {c : Chan} {s : State} (h : s.status c = .ok) (bytes : Bytes) :
    memWrite c bytes s = .go (s.attempt c bytes) := by
  simp only [memWrite, h]

/-- A write whose status is `fail` (R62, R245). -/
theorem memWrite_fail {c : Chan} {s : State} (h : s.status c = .fail) (bytes : Bytes) :
    memWrite c bytes s = .dead (fatalIO c (s.attempt c bytes)) := by
  simp only [memWrite, h]

/-- The two outcomes of a write; it is never refused. -/
theorem memWrite_cases (c : Chan) (bytes : Bytes) (s : State) :
    (s.status c = .ok ∧ memWrite c bytes s = .go (s.attempt c bytes)) ∨
      (s.status c = .fail ∧ memWrite c bytes s = .dead (fatalIO c (s.attempt c bytes))) := by
  cases h : s.status c
  · exact .inl ⟨rfl, memWrite_ok h bytes⟩
  · exact .inr ⟨rfl, memWrite_fail h bytes⟩

/-- A TX attempt as a record update, for the status that was drawn. -/
theorem attempt_tx {s : State} {st : WriteStatus} (h : s.txDraws.headD .ok = st) (bytes : Bytes) :
    s.attempt .tx bytes =
      { s with txDraws := s.txDraws.tail, outputs := s.outputs ++ [.emission .tx bytes st] } := by
  subst h; rfl

/-- A SINK attempt as a record update, for the status that was drawn. -/
theorem attempt_sink {s : State} {st : WriteStatus} (h : s.sinkDraws.headD .ok = st) (bytes : Bytes) :
    s.attempt .sink bytes =
      { s with sinkDraws := s.sinkDraws.tail, outputs := s.outputs ++ [.emission .sink bytes st] } := by
  subst h; rfl

/-! ### The fatal path -/

/-- FatalIO on TX, or on SINK in the idle phase: no STOP attempt (R245). -/
theorem fatalIO_quiet {c : Chan} {s : State} (h : c = .tx ∨ s.phase = .stopping) :
    fatalIO c s = (s.signal (failSignal c)).latchFatal := by
  have : ¬ (c = .sink ∧ (s.signal (failSignal c)).phase ≠ .stopping) := by
    rintro ⟨rfl, hp⟩
    rcases h with h | h
    · cases h
    · exact hp h
  simp only [fatalIO, this, if_false]

/-- FatalIO on SINK in an active session: one STOP attempt whose status is ignored (R245). -/
theorem fatalIO_session {s : State} (h : s.phase ≠ .stopping) :
    fatalIO .sink s = ((s.signal .sinkWriteFail).attempt .tx (encodeFrame s.cfg.crcTable mkStop)).latchFatal := by
  simp [fatalIO, failSignal, h]

/-- What the fatal path leaves, on either stream (R245). -/
theorem fatalIO_fields (c : Chan) (s : State) :
    (fatalIO c s).phase = .stopping ∧ (fatalIO c s).fatal = true ∧ (fatalIO c s).receiving = false ∧
      (fatalIO c s).rxBuf = [] ∧ (fatalIO c s).hdrWritten = s.hdrWritten ∧ (fatalIO c s).channel = s.channel ∧
      (fatalIO c s).cfg = s.cfg ∧ (fatalIO c s).inputs = s.inputs ∧ (fatalIO c s).expectedSeqNr = s.expectedSeqNr ∧
      (fatalIO c s).lastIndex = s.lastIndex ∧ (fatalIO c s).lastSeqNr = s.lastSeqNr ∧
      (fatalIO c s).unackedByteCount = s.unackedByteCount := by
  by_cases h : c = .tx ∨ s.phase = .stopping
  · simp [fatalIO_quiet h]
  · have hc : c = .sink := by cases c <;> simp_all
    subst hc
    have hp : s.phase ≠ .stopping := fun hp => h (.inr hp)
    simp [fatalIO_session hp]

theorem fatalIO_cfg (c : Chan) (s : State) : (fatalIO c s).cfg = s.cfg := (fatalIO_fields c s).2.2.2.2.2.2.1

theorem fatalIO_inputs (c : Chan) (s : State) : (fatalIO c s).inputs = s.inputs := (fatalIO_fields c s).2.2.2.2.2.2.2.1

theorem fatalIO_expectedSeqNr (c : Chan) (s : State) : (fatalIO c s).expectedSeqNr = s.expectedSeqNr :=
  (fatalIO_fields c s).2.2.2.2.2.2.2.2.1

/-- What the fatal path adds to the history (R245). -/
theorem fatalIO_outputs (c : Chan) (s : State) :
    (fatalIO c s).outputs = s.outputs ++ [.signal (failSignal c)] ∨
      (fatalIO c s).outputs = s.outputs ++ [.signal (failSignal c),
        .emission .tx (encodeFrame s.cfg.crcTable mkStop) (s.status .tx)] := by
  by_cases h : c = .tx ∨ s.phase = .stopping
  · exact .inl (by simp [fatalIO_quiet h])
  · have hc : c = .sink := by cases c <;> simp_all
    subst hc
    have hp : s.phase ≠ .stopping := fun hp => h (.inr hp)
    exact .inr (by simp [fatalIO_session hp, failSignal, State.status])

/-! ### The receive buffer -/

/-- An append within BUF_MAX (R64). -/
theorem appendByte_go {b : Byte} {s : State} (h : s.bufferFull = false) :
    appendByte b s = .go { s with rxBuf := s.rxBuf ++ [b] } := by
  simp [appendByte, h]

/-- An append beyond BUF_MAX (R64). -/
theorem appendByte_full {b : Byte} {s : State} (h : s.bufferFull = true) :
    appendByte b s = .refuse .bufferOverflow := by
  simp [appendByte, h]

/-- An append that runs on appended the byte and changed nothing else; it is never abandoned. -/
theorem appendByte_cases (b : Byte) (s : State) :
    appendByte b s = .go { s with rxBuf := s.rxBuf ++ [b] } ∨ appendByte b s = .refuse .bufferOverflow := by
  cases h : s.bufferFull
  · exact .inl (appendByte_go h)
  · exact .inr (appendByte_full h)

/-- Without a capacity limit the buffer is never full (R64). -/
theorem bufferFull_none {s : State} (h : s.cfg.bufMax = none) : s.bufferFull = false := by
  simp [State.bufferFull, h]

end Sys2Proof.Machine
end

