-- ==== Sys2Proof/Laws/Procedures.lean ====
section
/-! SUPPORT. What the internal procedures can do, said once each. -/

namespace Sys2Proof.Machine

/-- SENDACK and SENDNACK write what `sendMessage` writes (R178, R179). -/
theorem sendMessage_cases (msg : Bytes) (s : State) :
    sendMessage msg s = .go (s.attempt .tx (encodeFrame s.cfg.crcTable msg)) ∨
      sendMessage msg s = .dead (fatalIO .tx (s.attempt .tx (encodeFrame s.cfg.crcTable msg))) :=
  (memWrite_cases .tx _ s).imp And.right And.right

theorem sendMessage_ok {s : State} (h : s.status .tx = .ok) (msg : Bytes) :
    sendMessage msg s = .go (s.attempt .tx (encodeFrame s.cfg.crcTable msg)) := memWrite_ok h _

theorem sendMessage_fail {s : State} (h : s.status .tx = .fail) (msg : Bytes) :
    sendMessage msg s = .dead (fatalIO .tx (s.attempt .tx (encodeFrame s.cfg.crcTable msg))) := memWrite_fail h _

/-- The ACK is due (R176). -/
theorem ackDue_iff (s : State) : s.ackDue = true ↔ 250 ≤ s.unackedByteCount ∧ s.lastSeqNr ≠ 0 := by
  rw [State.ackDue, Bool.and_eq_true, decide_eq_true_iff, decide_eq_true_iff]
  exact Iff.rfl

/-- ACKCHECK without an ACK (R176). -/
theorem ackCheck_quiet {n : Nat} {s : State} (h : s.unackedByteCount + n < 250 ∨ s.lastSeqNr = 0) :
    ackCheck n s = .go (s.countBytes n) := by
  have : (s.countBytes n).ackDue = false := by
    rw [Bool.eq_false_iff]
    intro hd
    have := (ackDue_iff _).mp hd
    simp only [State.countBytes_unackedByteCount, State.countBytes_lastSeqNr] at this
    rcases h with h | h
    · omega
    · exact this.2 h
  simp [ackCheck, this]

/-- ACKCHECK with an ACK due (R176). -/
theorem ackCheck_due {n : Nat} {s : State} (h : 250 ≤ s.unackedByteCount + n) (h0 : s.lastSeqNr ≠ 0) :
    ackCheck n s = (sendAck (s.countBytes n)).andThen fun s2 => .go s2.clearCount := by
  have : (s.countBytes n).ackDue = true := (ackDue_iff _).mpr ⟨h, h0⟩
  simp [ackCheck, this]

/-- The three outcomes of ACKCHECK; it is never refused (R176). -/
theorem ackCheck_cases (n : Nat) (s : State) :
    ackCheck n s = .go (s.countBytes n) ∨
      ackCheck n s = .go ((s.countBytes n).attempt .tx
        (encodeFrame s.cfg.crcTable (mkAck s.lastIndex s.lastSeqNr))).clearCount ∨
      ackCheck n s = .dead (fatalIO .tx ((s.countBytes n).attempt .tx
        (encodeFrame s.cfg.crcTable (mkAck s.lastIndex s.lastSeqNr)))) := by
  by_cases h : s.unackedByteCount + n < 250 ∨ s.lastSeqNr = 0
  · exact .inl (ackCheck_quiet h)
  · rw [ackCheck_due (by omega) (fun h0 => h (.inr h0))]
    rcases sendMessage_cases (mkAck s.lastIndex s.lastSeqNr) (s.countBytes n) with h | h
    · exact .inr (.inl (by simp [sendAck, h]))
    · exact .inr (.inr (by simp [sendAck, h]))

/-- RECORD of a payload of at least one byte is its record (R212). -/
theorem recordOf_eq {payload : Bytes} (h : payload ≠ []) (sec usec : Long) :
    recordOf sec usec payload = recordBytes sec usec payload := by
  simp [recordOf, h]

/-- MKPACKET of a payload of at least one byte is its packet (R131). -/
theorem mkPacket_eq {payload : Bytes} (h : payload ≠ []) (idx seq : Half) :
    mkPacket idx seq payload = packetBytes idx seq payload := by
  simp [mkPacket, h]

/-- WRITE_RECORD within the length the header can express (R213). -/
theorem writeRecord_short {payload : Bytes} (h0 : payload ≠ []) (h : payload.length ≤ 65535) (sec usec : Long) (s : State) :
    writeRecord sec usec payload s = memWrite .sink (recordBytes sec usec payload) s := by
  have : ¬ maxPayload < payload.length := by simp only [maxPayload]; omega
  simp [writeRecord, this, recordOf_eq h0]

/-- WRITE_RECORD beyond it (R214). -/
theorem writeRecord_long {payload : Bytes} (h : 65535 < payload.length) (sec usec : Long) (s : State) :
    writeRecord sec usec payload s = .refuse .payloadTooLong := by
  have : maxPayload < payload.length := h
  simp [writeRecord, this]

/-- The three outcomes of WRITE_RECORD (R213, R214). -/
theorem writeRecord_cases (sec usec : Long) (payload : Bytes) (s : State) :
    (65535 < payload.length ∧ writeRecord sec usec payload s = .refuse .payloadTooLong) ∨
      (payload.length ≤ 65535 ∧ s.status .sink = .ok ∧
        writeRecord sec usec payload s = .go (s.attempt .sink (recordOf sec usec payload))) ∨
      (payload.length ≤ 65535 ∧ s.status .sink = .fail ∧
        writeRecord sec usec payload s = .dead (fatalIO .sink (s.attempt .sink (recordOf sec usec payload)))) := by
  by_cases h : 65535 < payload.length
  · exact .inl ⟨h, writeRecord_long h sec usec s⟩
  · have h' : payload.length ≤ 65535 := by omega
    have : ¬ maxPayload < payload.length := h
    rw [show writeRecord sec usec payload s = memWrite .sink (recordOf sec usec payload) s by simp [writeRecord, this]]
    rcases memWrite_cases .sink (recordOf sec usec payload) s with ⟨hs, hw⟩ | ⟨hs, hw⟩
    · exact .inr (.inl ⟨h', hs, hw⟩)
    · exact .inr (.inr ⟨h', hs, hw⟩)

/-- CLOSE of a run that DECODE rejects: its warning, then a NACK (R172). -/
theorem closeRun_reject {s : State} {run : Bytes} {r : RejectReason} {w : Warning} (ts : Timestamp)
    (h : deframe s.cfg.crcTable run = (.reject r, some w)) : closeRun run ts s = sendNack (s.warn w) := by
  simp [closeRun, h]

/-- CLOSE of a run that decodes to READY (R171). -/
theorem closeRun_ready {s : State} {run : Bytes} {crc : Half} {w : Option Warning} (ts : Timestamp)
    (h : deframe s.cfg.crcTable run = (.ok mkReady crc, w)) : closeRun run ts s = .go (peerReset s) := by
  obtain ⟨rfl, -⟩ := deframe_ok h
  simp [closeRun, h]

/-- CLOSE of a run that decodes to anything else (R170, R173). -/
theorem closeRun_packet {s : State} {run msg : Bytes} {crc : Half} {w : Option Warning} (ts : Timestamp)
    (h : deframe s.cfg.crcTable run = (.ok msg crc, w)) (hr : msg ≠ mkReady) :
    closeRun run ts s = takePacket msg ts s := by
  obtain ⟨rfl, -⟩ := deframe_ok h
  simp [closeRun, h, hr]

end Sys2Proof.Machine
end

