-- ==== Sys2Proof/Laws/Events.lean ====
section
/-! SUPPORT. What the event rules can do, said once each; the rows of received bytes as sequences of RX events; and how a
property that every event keeps is kept by every row the environment can deliver and by a step. -/

namespace Sys2Proof.Machine

open Host (Outcome)

/-! ### Where a rule can end -/

/-- Every state in which a rule can end, gone on or abandoned, has the property. -/
def Flow.Ends (f : Flow) (P : State → Prop) : Prop := ∀ t, f = .go t ∨ f = .dead t → P t

theorem Flow.ends_go {s : State} {P : State → Prop} (h : P s) : (Flow.go s).Ends P := by
  rintro t (h' | h') <;> cases h'
  exact h

theorem Flow.ends_dead {s : State} {P : State → Prop} (h : P s) : (Flow.dead s).Ends P := by
  rintro t (h' | h') <;> cases h'
  exact h

theorem Flow.ends_refuse (r : Refusal) (P : State → Prop) : (Flow.refuse r).Ends P := by
  rintro t (h' | h') <;> cases h'

theorem Flow.Ends.mono {f : Flow} {P Q : State → Prop} (h : f.Ends P) (hq : ∀ t, P t → Q t) : f.Ends Q :=
  fun t ht => hq t (h t ht)

/-- Two lines in sequence: where the first goes on the second ends well, where it is abandoned the property holds. -/
theorem Flow.ends_andThen {f : Flow} {k : State → Flow} {P : State → Prop} (hg : ∀ s, f = .go s → (k s).Ends P)
    (hd : ∀ s, f = .dead s → P s) : (f.andThen k).Ends P := by
  cases f with
  | go s => exact hg s rfl
  | dead s => exact Flow.ends_dead (hd s rfl)
  | refuse r => exact Flow.ends_refuse r P

theorem runEvent_ends {s t : State} {rule : State → Flow} {P : State → Prop} (h : runEvent s rule = .next t)
    (hr : (rule s).Ends P) : P t := hr t (runEvent_next h).2

theorem memWrite_ends {c : Chan} {bytes : Bytes} {s : State} {P : State → Prop} (hg : P (s.attempt c bytes))
    (hd : P (fatalIO c (s.attempt c bytes))) : (memWrite c bytes s).Ends P := by
  rcases memWrite_cases c bytes s with ⟨-, h⟩ | ⟨-, h⟩ <;> rw [h]
  · exact Flow.ends_go hg
  · exact Flow.ends_dead hd

theorem sendMessage_ends {msg : Bytes} {s : State} {P : State → Prop}
    (hg : P (s.attempt .tx (encodeFrame s.cfg.crcTable msg)))
    (hd : P (fatalIO .tx (s.attempt .tx (encodeFrame s.cfg.crcTable msg)))) : (sendMessage msg s).Ends P :=
  memWrite_ends hg hd

theorem appendByte_ends {b : Byte} {s : State} {P : State → Prop} (h : P { s with rxBuf := s.rxBuf ++ [b] }) :
    (appendByte b s).Ends P := by
  rcases appendByte_cases b s with h' | h' <;> rw [h']
  · exact Flow.ends_go h
  · exact Flow.ends_refuse _ _

theorem ackCheck_ends {n : Nat} {s : State} {P : State → Prop} (hq : P (s.countBytes n))
    (hg : P ((s.countBytes n).attempt .tx (encodeFrame s.cfg.crcTable (mkAck s.lastIndex s.lastSeqNr))).clearCount)
    (hd : P (fatalIO .tx ((s.countBytes n).attempt .tx (encodeFrame s.cfg.crcTable (mkAck s.lastIndex s.lastSeqNr))))) :
    (ackCheck n s).Ends P := by
  rcases ackCheck_cases n s with h | h | h <;> rw [h]
  · exact Flow.ends_go hq
  · exact Flow.ends_go hg
  · exact Flow.ends_dead hd

/-! ### The wireless channel -/

theorem legalChannel_iff (ch : Byte) : legalChannel ch ↔ 11 ≤ ch.toNat ∧ ch.toNat ≤ 26 := Iff.rfl

/-- MKRST of a legal channel (R126). -/
theorem mkRst_legal {ch : Byte} (h : legalChannel ch) : mkRst ch = [0x52, 0x53, 0x54, ch] := by
  simp [mkRst, h, tagRst]

/-! ### RX, by phase and flags -/

theorem rx_live {s : State} (hf : s.fatal = false) (b : Byte) (now : Timestamp) :
    receiveByte b now s = (rxRule b now s).outcome := runEvent_live hf _

/-- A byte within BUF_MAX, inside a frame or a run, is accumulated (R162, R167). -/
theorem rxRule_accumulate {s : State} {b : Byte} (now : Timestamp) (hp : s.phase ≠ .stopping) (hr : s.receiving = true)
    (hb : b ≠ flagByte) : rxRule b now s = appendByte b s := by
  unfold rxRule
  cases h : s.phase with
  | stopping => exact absurd h hp
  | connecting => simp only [rxConnecting, hb, hr, ne_eq, not_false_eq_true, if_true]
  | connected => simp only [hr, rxInside, hb, ne_eq, not_false_eq_true, if_true]

/-- A delimiter outside a frame or a run opens one (R162, R166). -/
theorem rxRule_open {s : State} (now : Timestamp) (hp : s.phase ≠ .stopping) (hr : s.receiving = false) :
    rxRule flagByte now s = .go s.openFrame := by
  unfold rxRule
  cases h : s.phase with
  | stopping => exact absurd h hp
  | connecting => simp [rxConnecting, hr]
  | connected => simp [hr, rxOutside]

/-- A delimiter behind a non-empty run closes it in the receive loop (R169). -/
theorem rxRule_close {s : State} (now : Timestamp) (hp : s.phase = .connected) (hr : s.receiving = true)
    (he : s.rxBuf ≠ []) : rxRule flagByte now s = closeRun s.rxBuf now s.leaveFrame := by
  simp [rxRule, hp, hr, rxInside, he]

/-- A delimiter behind a run in the connect phase (R162). -/
theorem rxRule_connectEnd {s : State} (now : Timestamp) (hp : s.phase = .connecting) (hr : s.receiving = true) :
    rxRule flagByte now s = .go (endConnectRun s) := by
  simp [rxRule, hp, rxConnecting, hr]

/-- The two outcomes of a run's end in the connect phase (R162). -/
theorem endConnectRun_cases (s : State) :
    ((∃ crc, (deframe s.cfg.crcTable s.rxBuf).1 = .ok mkReady crc) ∧ endConnectRun s = connect { s with rxBuf := [] }) ∨
      ((∀ crc, (deframe s.cfg.crcTable s.rxBuf).1 ≠ .ok mkReady crc) ∧ endConnectRun s = { s with rxBuf := [] }) := by
  unfold endConnectRun
  cases h : (deframe s.cfg.crcTable s.rxBuf).1 with
  | reject r => exact .inr ⟨by simp, rfl⟩
  | ok msg crc =>
    by_cases hm : msg = mkReady
    · subst hm; exact .inl ⟨⟨crc, rfl⟩, by simp⟩
    · exact .inr ⟨by simp [hm], by simp [hm]⟩

/-- Everything an RX event can do before its run is closed, and the closing (R162, R165 to R169, R182). -/
theorem rxRule_cases (b : Byte) (now : Timestamp) (s : State) :
    rxRule b now s = .go s ∨
      (s.phase ≠ .stopping ∧ s.receiving = true ∧ b ≠ flagByte ∧ rxRule b now s = appendByte b s) ∨
      (s.phase ≠ .stopping ∧ s.receiving = false ∧ b = flagByte ∧ rxRule b now s = .go s.openFrame) ∨
      (s.phase = .connecting ∧ s.receiving = true ∧ b = flagByte ∧ rxRule b now s = .go (endConnectRun s)) ∨
      (s.phase = .connected ∧ s.receiving = false ∧ b ≠ flagByte ∧ rxRule b now s = .go (s.warn (.byteDropped b))) ∨
      (s.phase = .connected ∧ s.receiving = true ∧ b = flagByte ∧ s.rxBuf = [] ∧
        rxRule b now s = .go { s.warn .emptyFrame with receiving := false }) ∨
      (s.phase = .connected ∧ s.receiving = true ∧ b = flagByte ∧ s.rxBuf ≠ [] ∧
        rxRule b now s = closeRun s.rxBuf now s.leaveFrame) := by
  by_cases hp : s.phase = .stopping
  · exact .inl (by simp [rxRule, hp])
  · by_cases hb : b = flagByte
    · subst hb
      by_cases hr : s.receiving = true
      · by_cases hc : s.phase = .connected
        · by_cases he : s.rxBuf = []
          · exact .inr (.inr (.inr (.inr (.inr (.inl ⟨hc, hr, rfl, he, by simp [rxRule, hc, hr, rxInside, he]⟩)))))
          · exact .inr (.inr (.inr (.inr (.inr (.inr ⟨hc, hr, rfl, he, rxRule_close now hc hr he⟩)))))
        · have hc : s.phase = .connecting := by cases h : s.phase <;> simp_all
          exact .inr (.inr (.inr (.inl ⟨hc, hr, rfl, rxRule_connectEnd now hc hr⟩)))
      · have hr : s.receiving = false := by simpa using hr
        exact .inr (.inr (.inl ⟨hp, hr, rfl, rxRule_open now hp hr⟩))
    · by_cases hr : s.receiving = true
      · exact .inr (.inl ⟨hp, hr, hb, rxRule_accumulate now hp hr hb⟩)
      · have hr : s.receiving = false := by simpa using hr
        by_cases hc : s.phase = .connected
        · exact .inr (.inr (.inr (.inr (.inl ⟨hc, hr, hb, by simp [rxRule, hc, hr, rxOutside, hb]⟩))))
        · have hc : s.phase = .connecting := by cases h : s.phase <;> simp_all
          exact .inl (by simp [rxRule, hc, rxConnecting, hr, hb])

/-- Everything a closed run can do (R170 to R173): a rejected one sends a NACK, READY resets the link, a packet goes to
MATCH or MISMATCH by its number. -/
theorem closeRun_cases (run : Bytes) (ts : Timestamp) (s : State) :
    (∃ r w, deframe s.cfg.crcTable run = (.reject r, some w) ∧ closeRun run ts s = sendNack (s.warn w)) ∨
      (∃ crc, deframe s.cfg.crcTable run = (.ok mkReady crc, none) ∧ closeRun run ts s = .go (peerReset s)) ∨
      (∃ a b c d p crc, deframe s.cfg.crcTable run = (.ok (a :: b :: c :: d :: p) crc, none) ∧ p ≠ [] ∧
        a :: b :: c :: d :: p ≠ mkReady ∧
        ((join16 c d = s.expectedSeqNr ∧
            closeRun run ts s = matchPacket (join16 a b) (join16 c d) p (4 + p.length) ts s) ∨
          (join16 c d ≠ s.expectedSeqNr ∧ closeRun run ts s = mismatchPacket (join16 c d) (4 + p.length) s))) := by
  rcases deframe_cases s.cfg.crcTable run with ⟨msg, crc, h, h5⟩ | ⟨r, w, h⟩
  · by_cases hm : msg = mkReady
    · subst hm
      exact .inr (.inl ⟨crc, h, closeRun_ready ts h⟩)
    · obtain ⟨a, b, c, d, p, hp, rfl, hl⟩ := exists_packet h5
      refine .inr (.inr ⟨a, b, c, d, p, crc, h, hp, hm, ?_⟩)
      rw [closeRun_packet ts h hm, takePacket]
      simp only [parsePkt_cons a b c d hp, hl]
      by_cases he : join16 c d = s.expectedSeqNr
      · exact .inl ⟨he, by rw [if_pos he]⟩
      · exact .inr ⟨he, by rw [if_neg he]⟩
  · exact .inl ⟨r, w, h, closeRun_reject ts h⟩

/-! ### The other event rules -/

/-- Everything HDR can do (R210). -/
theorem hdrRule_ends {s : State} {P : State → Prop}
    (hg : s.hdrWritten = false → s.status .sink = .ok → P (s.attempt .sink globalHeaderBytes).markHeader)
    (hd : s.hdrWritten = false → s.status .sink = .fail → P (fatalIO .sink (s.attempt .sink globalHeaderBytes))) :
    (hdrRule s).Ends P := by
  unfold hdrRule
  split
  · exact Flow.ends_refuse _ _
  · rename_i h
    have h : s.hdrWritten = false := by simpa using h
    rcases memWrite_cases .sink globalHeaderBytes s with ⟨hs, hw⟩ | ⟨hs, hw⟩ <;> rw [hw]
    · exact Flow.ends_go (hg h hs)
    · exact Flow.ends_dead (hd h hs)

/-- Everything START can do (R160). -/
theorem startRule_ends {s : State} {ch : Byte} {P : State → Prop}
    (h : s.hdrWritten = true → legalChannel ch → s.phase ≠ .connected → (sendMessage (mkRst ch) (s.beginConnect ch)).Ends P) :
    (startRule ch s).Ends P := by
  unfold startRule
  split
  · exact Flow.ends_refuse _ _
  · split
    · exact Flow.ends_refuse _ _
    · split
      · exact Flow.ends_refuse _ _
      · rename_i h1 h2 h3
        exact h (by simpa using h1) (by simpa using h2) h3

/-- Everything WINDOW can do (R161, R182). -/
theorem windowRule_ends {s : State} {P : State → Prop} (hs : P s)
    (h : s.phase = .connecting → (sendMessage (mkRst s.channel) s.leaveFrame).Ends P) : (windowRule s).Ends P := by
  unfold windowRule
  cases hp : s.phase with
  | connecting => exact h hp
  | stopping => exact Flow.ends_go hs
  | connected => exact Flow.ends_go hs

/-- Everything TIMEOUT can do (R164, R180, R182). -/
theorem timeoutRule_ends {s : State} {P : State → Prop} (hs : P s)
    (h : s.phase = .connected → s.receiving = true → (sendNack s.leaveFrame).Ends P) : (timeoutRule s).Ends P := by
  unfold timeoutRule
  cases hp : s.phase with
  | connected =>
    by_cases hr : s.receiving = true
    · simp only [hr, if_true]; exact h hp hr
    · simp only [hr]; exact Flow.ends_go hs
  | stopping => exact Flow.ends_go hs
  | connecting => exact Flow.ends_go hs

/-- Everything STOPREQ can do (R181, R182). -/
theorem stopreqRule_ends {s : State} {P : State → Prop} (hs : P s)
    (h : s.phase ≠ .stopping → (sendMessage mkStop s.endSession).Ends P) : (stopreqRule s).Ends P := by
  unfold stopreqRule
  cases hp : s.phase with
  | stopping => exact Flow.ends_go hs
  | connecting => exact h (by simp [hp])
  | connected => exact h (by simp [hp])

/-- An event that answers a next state did so by its rule, or was RESET. -/
theorem event_ends {i : Instr} {s t : State} {P : State → Prop} (hi : i.kind = .event) (h : exec i s = .next t)
    (hreset : i = .reset → P (resetState s))
    (hhdr : i = .hdr → s.fatal = false → (hdrRule s).Ends P)
    (hstart : ∀ ch, i = .start ch → s.fatal = false → (startRule ch s).Ends P)
    (hwindow : i = .window → s.fatal = false → (windowRule s).Ends P)
    (hrx : ∀ b now, i = .rx b now → s.fatal = false → (rxRule b now s).Ends P)
    (htimeout : i = .timeout → s.fatal = false → (timeoutRule s).Ends P)
    (hstopreq : i = .stopreq → s.fatal = false → (stopreqRule s).Ends P) : P t := by
  cases i <;> simp only [Instr.kind, reduceCtorEq] at hi
  case reset => cases h; exact hreset rfl
  case hdr => exact runEvent_ends h (hhdr rfl (runEvent_next h).1)
  case start ch => exact runEvent_ends h (hstart ch rfl (runEvent_next h).1)
  case window => exact runEvent_ends h (hwindow rfl (runEvent_next h).1)
  case rx b now => exact runEvent_ends h (hrx b now rfl (runEvent_next h).1)
  case timeout => exact runEvent_ends h (htimeout rfl (runEvent_next h).1)
  case stopreq => exact runEvent_ends h (hstopreq rfl (runEvent_next h).1)

/-! ### Received bytes as RX events (R91) -/

@[simp] theorem receiveBytes_nil (now : Timestamp) (s : State) : receiveBytes [] now s = .next s := rfl

theorem receiveBytes_cons_next {b : Byte} {now : Timestamp} {s t : State} (h : receiveByte b now s = .next t) (rest : Bytes) :
    receiveBytes (b :: rest) now s = receiveBytes rest now t := by
  simp [receiveBytes, h]

theorem receiveBytes_append_next {now : Timestamp} {s t : State} {bs : Bytes} (h : receiveBytes bs now s = .next t)
    (rest : Bytes) : receiveBytes (bs ++ rest) now s = receiveBytes rest now t := by
  induction bs generalizing s with
  | nil => cases h; rfl
  | cons b bs ih =>
    rw [receiveBytes] at h
    split at h
    · rename_i s1 h1
      rw [List.cons_append, receiveBytes_cons_next h1, ih h]
    · cases h
    · cases h

/-- A run without a delimiter, inside a frame and without a capacity limit, is accumulated raw (R162, R167). -/
theorem receiveBytes_inside {s : State} (now : Timestamp) (hf : s.fatal = false) (hp : s.phase ≠ .stopping)
    (hr : s.receiving = true) (hm : s.cfg.bufMax = none) (run : Bytes) (hb : flagByte ∉ run) :
    receiveBytes run now s = .next { s with rxBuf := s.rxBuf ++ run } := by
  induction run generalizing s with
  | nil => simp
  | cons b run ih =>
    rw [List.mem_cons, not_or] at hb
    have h1 : receiveByte b now s = .next { s with rxBuf := s.rxBuf ++ [b] } := by
      rw [rx_live hf, rxRule_accumulate now hp hr (fun h => hb.1 h.symm), appendByte_go (bufferFull_none hm)]
      rfl
    rw [receiveBytes_cons_next h1, ih (s := { s with rxBuf := s.rxBuf ++ [b] }) hf hp hr hm hb.2]
    simp

/-- A delimiter and a run, outside a frame: the run lies in the buffer (R162, R166, R167). -/
theorem receiveBytes_open {s : State} (now : Timestamp) (hf : s.fatal = false) (hp : s.phase ≠ .stopping)
    (hr : s.receiving = false) (hm : s.cfg.bufMax = none) (run : Bytes) (hb : flagByte ∉ run) :
    receiveBytes ([flagByte] ++ run) now s = .next { s with receiving := true, rxBuf := run } := by
  have h1 : receiveByte flagByte now s = .next s.openFrame := by
    rw [rx_live hf, rxRule_open now hp hr]; rfl
  rw [List.singleton_append, receiveBytes_cons_next h1, receiveBytes_inside (s := s.openFrame) now hf hp rfl hm run hb]
  simp [State.openFrame]

/-- The frame of a message received in the receive loop closes its run (R169). -/
theorem receiveFrame_connected {s : State} (m : Bytes) (hf : s.fatal = false) (hp : s.phase = .connected)
    (hr : s.receiving = false) (hm : s.cfg.bufMax = none) :
    receiveFrame m s = (closeRun (frameRun s.cfg.crcTable m) s.clock { s with rxBuf := [] }).outcome := by
  have hopen := receiveBytes_open s.clock hf (by simp [hp]) hr hm (frameRun s.cfg.crcTable m) (flag_not_mem_frameRun _ m)
  have hne : frameRun s.cfg.crcTable m ≠ [] := by
    intro h
    have h1 := congrArg List.length h
    have h2 := stuff_length (hi8 (crc16 s.cfg.crcTable m))
    simp only [frameRun, List.length_append, List.length_nil] at h1
    omega
  rw [receiveFrame, encodeFrame, receiveBytes_append_next hopen, receiveBytes,
    rx_live (s := { s with receiving := true, rxBuf := frameRun s.cfg.crcTable m }) hf,
    rxRule_close (s := { s with receiving := true, rxBuf := frameRun s.cfg.crcTable m }) s.clock hp rfl hne]
  have he : (State.leaveFrame { s with receiving := true, rxBuf := frameRun s.cfg.crcTable m }) =
      { s with rxBuf := [] } := by simp [State.leaveFrame, hr]
  rw [he]
  cases closeRun (frameRun s.cfg.crcTable m) s.clock { s with rxBuf := [] } <;> rfl

/-- The frame of a message received in the connect phase, outside a run, ends its run (R162). -/
theorem receiveFrame_connecting {s : State} (m : Bytes) (hf : s.fatal = false) (hp : s.phase = .connecting)
    (hr : s.receiving = false) (hm : s.cfg.bufMax = none) :
    receiveFrame m s = .next (endConnectRun { s with receiving := true, rxBuf := frameRun s.cfg.crcTable m }) := by
  have hopen := receiveBytes_open s.clock hf (by simp [hp]) hr hm (frameRun s.cfg.crcTable m) (flag_not_mem_frameRun _ m)
  rw [receiveFrame, encodeFrame, receiveBytes_append_next hopen, receiveBytes,
    rx_live (s := { s with receiving := true, rxBuf := frameRun s.cfg.crcTable m }) hf,
    rxRule_connectEnd (s := { s with receiving := true, rxBuf := frameRun s.cfg.crcTable m }) s.clock hp rfl]
  rfl

/-- DECODE of the run of a frame (R151). -/
theorem deframe_frameRun (t : CrcTable) (m : Bytes) :
    deframe t (frameRun t m) =
      if m.length < 5 then (.reject .frameTooShort, some (.frameTooShort (m.length + 2))) else (.ok m (crc16 t m), none) := by
  rw [deframe_of_unstuff t (unstuff_frameRun t m)]
  simp

/-! ### From events to delivered rows and steps -/

/-- A property that every RX event keeps is kept by received bytes. -/
theorem receiveBytes_keeps {P : State → Prop}
    (hrx : ∀ b now s t, P s → exec (.rx b now) s = .next t → P t) (bs : Bytes) (now : Timestamp) {s t : State} (hs : P s)
    (h : receiveBytes bs now s = .next t) : P t := by
  induction bs generalizing s with
  | nil => cases h; exact hs
  | cons b bs ih =>
    rw [receiveBytes] at h
    split at h
    · rename_i s1 h1
      exact ih (hrx b now s s1 hs h1) h
    · cases h
    · cases h

/-- A property that every event keeps is kept by every row the environment can deliver. -/
theorem deliverable_keeps {P : State → Prop} (hev : ∀ i s t, i.kind = .event → P s → exec i s = .next t → P t)
    {i : Instr} {s t : State} (hi : i.deliverable) (hs : P s) (h : exec i s = .next t) : P t := by
  have hrx : ∀ b now s t, P s → exec (.rx b now) s = .next t → P t := fun b now s t => hev (.rx b now) s t rfl
  have hbytes := receiveBytes_keeps hrx
  rcases hi with hi | hi
  · exact hev i s t hi hs h
  · cases i <;> simp only [Instr.kind, reduceCtorEq] at hi
    case flag => exact hrx _ _ s t hs h
    case esc => exact hrx _ _ s t hs h
    case escFlag => exact hbytes _ _ hs h
    case escEsc => exact hbytes _ _ hs h
    case escAny x => exact hbytes _ _ hs h
    case frame m => exact hbytes _ _ hs h
    case ready => exact hbytes _ _ hs h
    case packet idx seq p => exact hbytes _ _ hs h

/-! ### What a step does with each kind of input -/

/-- A row of the line is its bytes received one by one (R71, R91). -/
theorem wire_row_receives {s : State} {bs : Bytes} {i : Instr} (h : decode s.cfg.crcTable .wire bs = .row i) :
    exec i s = receiveBytes bs s.clock s := by
  have one : ∀ b, receiveByte b s.clock s = receiveBytes [b] s.clock s := by
    intro b
    rw [receiveBytes]
    cases receiveByte b s.clock s <;> rfl
  rcases decodeWire_row h with ⟨rfl, rfl⟩ | ⟨rfl, rfl⟩ | ⟨rfl, rfl⟩ | ⟨rfl, rfl⟩ | ⟨x, rfl, rfl⟩ | ⟨m, rfl, rfl⟩
  · exact one _
  · exact one _
  · rfl
  · rfl
  · rfl
  · rfl

/-- A row of the peer's messages is its frame received (R84). -/
theorem message_row_receives {s : State} {msg : Bytes} {i : Instr} (h : decode s.cfg.crcTable .fromPeer msg = .row i) :
    exec i s = receiveFrame msg s := by
  rcases decodeFromPeer_row h with ⟨rfl, rfl⟩ | ⟨idx, seq, p, rfl, rfl⟩ <;> rfl

theorem step_idle {s : State} (h : s.inputs = []) : step s = .next s := by simp [step, fetch, h, runFetched]

theorem step_instr {s : State} {x : Input} {rest : List Input} {i : Instr} (h : s.inputs = x :: rest)
    (hx : x.request = .instr i) : step s = exec i (s.takeInput x rest) := by
  simp [step, fetch, h, hx, fetchRequest, runFetched]

/-- Every byte string of the line, row or not, is received byte by byte (R86). -/
theorem step_wire {s : State} {x : Input} {rest : List Input} {bs : Bytes} (h : s.inputs = x :: rest)
    (hx : x.request = .wire bs) : step s = receiveBytes bs x.clock (s.takeInput x rest) := by
  have hr : step s = runFetched s (fetchWire bs (s.takeInput x rest)) := by simp [step, fetch, h, hx, fetchRequest]
  rw [hr]
  unfold fetchWire
  cases hd : decode (s.takeInput x rest).cfg.crcTable .wire bs with
  | row i => exact wire_row_receives hd
  | error e => rfl

/-- Every message of the peer, row or not, is its frame received (R84, R86). -/
theorem step_message {s : State} {x : Input} {rest : List Input} {msg : Bytes} (h : s.inputs = x :: rest)
    (hx : x.request = .message msg) : step s = receiveFrame msg (s.takeInput x rest) := by
  have hr : step s = runFetched s (fetchMessage msg (s.takeInput x rest)) := by simp [step, fetch, h, hx, fetchRequest]
  rw [hr]
  unfold fetchMessage
  cases hd : decode (s.takeInput x rest).cfg.crcTable .fromPeer msg with
  | row i => exact message_row_receives hd
  | error e => rfl

/-- What a step that answers a next state did: wait, run a row given as such, or receive bytes. -/
theorem step_next {s t : State} (h : step s = .next t) :
    (s.inputs = [] ∧ t = s) ∨
      (∃ x rest i, s.inputs = x :: rest ∧ x.request = .instr i ∧ exec i (s.takeInput x rest) = .next t) ∨
      (∃ x rest bs, s.inputs = x :: rest ∧ receiveBytes bs x.clock (s.takeInput x rest) = .next t) := by
  cases hin : s.inputs with
  | nil => rw [step_idle hin] at h; cases h; exact .inl ⟨rfl, rfl⟩
  | cons x rest =>
    cases hx : x.request with
    | instr i => rw [step_instr hin hx] at h; exact .inr (.inl ⟨x, rest, i, rfl, hx, h⟩)
    | wire bs => rw [step_wire hin hx] at h; exact .inr (.inr ⟨x, rest, bs, rfl, h⟩)
    | message msg => rw [step_message hin hx] at h; exact .inr (.inr ⟨x, rest, _, rfl, h⟩)

/-- A property that every event keeps and that does not look at the pending inputs and draws is kept by a step over inputs
the environment can deliver. -/
theorem step_keeps {P : State → Prop} (hev : ∀ i s t, i.kind = .event → P s → exec i s = .next t → P t)
    (htake : ∀ s x rest, P s → P (s.takeInput x rest)) {s t : State} (hd : s.traceDeliverable) (hs : P s)
    (h : step s = .next t) : P t := by
  rcases step_next h with ⟨-, rfl⟩ | ⟨x, rest, i, hin, hx, he⟩ | ⟨x, rest, bs, hin, he⟩
  · exact hs
  · have hi : i.deliverable := by simpa [Input.deliverable, hx] using hd x (by simp [hin])
    exact deliverable_keeps hev hi (htake s x rest hs) he
  · exact receiveBytes_keeps (fun b now s t => hev (.rx b now) s t rfl) bs x.clock (htake s x rest hs) he

end Sys2Proof.Machine
end

