-- ==== Sys2Proof/Laws/Streams.lean ====
section
/-! SUPPORT. What each output operation adds to the streams of Safety.lean, and when the invariants of Safety.lean carry over
from one state to another. -/

namespace Sys2Proof.Machine

/-! ### Emissions -/

theorem emissions_congr {s t : State} (c : Chan) (h : t.outputs = s.outputs) : t.emissions c = s.emissions c := by
  simp only [State.emissions, h]

theorem written_congr {s t : State} {c : Chan} (h : t.emissions c = s.emissions c) : t.written c = s.written c := by
  simp only [State.written, h]

@[simp] theorem emissions_warn (s : State) (w : Warning) (c : Chan) : (s.warn w).emissions c = s.emissions c := by
  simp [State.emissions, State.warn, State.output]

@[simp] theorem emissions_signal (s : State) (g : Signal) (c : Chan) : (s.signal g).emissions c = s.emissions c := by
  simp [State.emissions, State.signal, State.output]

/-- An attempt adds its bytes and its status to its own stream (R62). -/
theorem emissions_attempt_same (s : State) (c : Chan) (bytes : Bytes) :
    (s.attempt c bytes).emissions c = s.emissions c ++ [(bytes, s.status c)] := by
  cases c <;> simp [State.emissions, State.attempt, State.output, State.useDraw]

theorem emissions_attempt_other (s : State) {c d : Chan} (h : d ≠ c) (bytes : Bytes) :
    (s.attempt d bytes).emissions c = s.emissions c := by
  cases c <;> cases d <;> simp [State.emissions, State.attempt, State.output, State.useDraw] at h ⊢

/-- A successful attempt adds its bytes to what its stream holds (R62). -/
theorem written_attempt_ok {s : State} {c : Chan} (h : s.status c = .ok) (bytes : Bytes) :
    (s.attempt c bytes).written c = s.written c ++ [bytes] := by
  simp [State.written, emissions_attempt_same, h]

/-- A failed attempt adds nothing to it (R62, U11). -/
theorem written_attempt_fail {s : State} {c : Chan} (h : s.status c = .fail) (bytes : Bytes) :
    (s.attempt c bytes).written c = s.written c := by
  simp [State.written, emissions_attempt_same, h]

/-- The fatal path puts nothing on the sink, and at most one STOP frame on TX (R245). -/
theorem emissions_fatalIO (c : Chan) (s : State) :
    (fatalIO c s).emissions .sink = s.emissions .sink ∧
      ((fatalIO c s).emissions .tx = s.emissions .tx ∨
        (fatalIO c s).emissions .tx = s.emissions .tx ++ [(encodeFrame s.cfg.crcTable mkStop, s.status .tx)]) := by
  rcases fatalIO_outputs c s with h | h
  · constructor
    · simp [State.emissions, h]
    · left; simp [State.emissions, h]
  · constructor
    · simp [State.emissions, h]
    · right; simp [State.emissions, h]

/-! ### The invariants of R39 -/

/-- The invariants look at ten fields only. -/
theorem SessionInv.congr {s t : State} (h : SessionInv s) (hp : t.phase = s.phase) (hc : t.channel = s.channel)
    (he : t.expectedSeqNr = s.expectedSeqNr) (hi : t.lastIndex = s.lastIndex) (hl : t.lastSeqNr = s.lastSeqNr)
    (hr : t.receiving = s.receiving) (hb : t.rxBuf = s.rxBuf) (hh : t.hdrWritten = s.hdrWritten)
    (hf : t.fatal = s.fatal) : SessionInv t := by
  constructor
  · rw [hr, hb]; exact h.emptyOutside
  · rw [hb]; exact h.noDelimiter
  · rw [hp, he]; exact h.neverExpectsZero
  · rw [hp, hl, hi, he]; exact h.freshSession
  · rw [hp, hl, he]; exact h.expectsSuccessor
  · rw [hp, hh]; exact h.headerFirst
  · rw [hf, hp]; exact h.fatalStops
  · rw [hp, hr]; exact h.idleOutside
  · rw [hp, hc]; exact h.channelLegal

/-- An idle state outside a frame meets the invariants (R39). -/
theorem SessionInv.idle {s : State} (hp : s.phase = .stopping) (hr : s.receiving = false) (hb : s.rxBuf = []) :
    SessionInv s := by
  constructor <;> simp [hp, hr, hb]

/-- The fatal path ends in a state that meets the invariants (R245). -/
theorem SessionInv.fatalIO (c : Chan) (s : State) : SessionInv (fatalIO c s) := by
  obtain ⟨hp, -, hr, hb, -⟩ := fatalIO_fields c s
  exact .idle hp hr hb

theorem SessionInv.attempt {s : State} (h : SessionInv s) (c : Chan) (bytes : Bytes) : SessionInv (s.attempt c bytes) := by
  cases c <;> exact h.congr rfl rfl rfl rfl rfl rfl rfl rfl rfl

/-! ### The stream invariants -/

theorem TxStreamInv.congr {s t : State} (h : TxStreamInv s) (hc : t.cfg = s.cfg) (he : t.emissions .tx = s.emissions .tx) :
    TxStreamInv t := by
  unfold TxStreamInv at h ⊢
  rw [hc, he]; exact h

/-- An attempt to send the frame of an outbound message keeps the shape of the TX stream (R79, R125). -/
theorem TxStreamInv.attempt_tx {s : State} (h : TxStreamInv s) {m : Bytes} (hm : OutboundMessage m) :
    TxStreamInv (s.attempt .tx (encodeFrame s.cfg.crcTable m)) := by
  intro e he
  rw [emissions_attempt_same, List.mem_append, List.mem_singleton] at he
  rcases he with he | rfl
  · exact h e he
  · exact ⟨m, hm, rfl⟩

theorem TxStreamInv.attempt_sink {s : State} (h : TxStreamInv s) (bytes : Bytes) : TxStreamInv (s.attempt .sink bytes) :=
  h.congr rfl (emissions_attempt_other s (by decide) bytes)

theorem TxStreamInv.fatalIO {s : State} (h : TxStreamInv s) (c : Chan) : TxStreamInv (fatalIO c s) := by
  have hc : (Machine.fatalIO c s).cfg = s.cfg := (fatalIO_fields c s).2.2.2.2.2.2.1
  rcases (emissions_fatalIO c s).2 with he | he
  · exact h.congr hc he
  · intro e hm
    rw [he, List.mem_append, List.mem_singleton] at hm
    rw [hc]
    rcases hm with hm | rfl
    · exact h e hm
    · exact ⟨mkStop, .stop, rfl⟩

theorem TxStreamInv.sendMessage {s : State} (h : TxStreamInv s) {m : Bytes} (hm : OutboundMessage m) :
    (sendMessage m s).Ends TxStreamInv :=
  sendMessage_ends (h.attempt_tx hm) ((h.attempt_tx hm).fatalIO .tx)

theorem CaptureStreamInv.congr {s t : State} (h : CaptureStreamInv s) (hh : t.hdrWritten = s.hdrWritten)
    (he : t.emissions .sink = s.emissions .sink) : CaptureStreamInv t := by
  unfold CaptureStreamInv at h ⊢
  rw [hh, written_congr he]; exact h

theorem CaptureStreamInv.attempt_tx {s : State} (h : CaptureStreamInv s) (bytes : Bytes) :
    CaptureStreamInv (s.attempt .tx bytes) :=
  h.congr rfl (emissions_attempt_other s (by decide) bytes)

theorem CaptureStreamInv.fatalIO {s : State} (h : CaptureStreamInv s) (c : Chan) : CaptureStreamInv (fatalIO c s) :=
  h.congr (fatalIO_fields c s).2.2.2.2.1 (emissions_fatalIO c s).1

/-- A failed write on the sink leaves the capture stream as it was (R62, U11). -/
theorem CaptureStreamInv.attempt_fail {s : State} (h : CaptureStreamInv s) (hs : s.status .sink = .fail) (bytes : Bytes) :
    CaptureStreamInv (s.attempt .sink bytes) := by
  have hh : (s.attempt .sink bytes).hdrWritten = s.hdrWritten := rfl
  unfold CaptureStreamInv at h ⊢
  rw [hh, written_attempt_fail hs]; exact h

/-- A record behind the header keeps the shape of the capture stream (R217). -/
theorem CaptureStreamInv.attempt_record {s : State} (h : CaptureStreamInv s) (hw : s.hdrWritten = true)
    (hs : s.status .sink = .ok) {bytes : Bytes} (hr : IsRecord bytes) : CaptureStreamInv (s.attempt .sink bytes) := by
  have hh : (s.attempt .sink bytes).hdrWritten = s.hdrWritten := rfl
  unfold CaptureStreamInv at h ⊢
  rw [hh, if_pos hw, written_attempt_ok hs]
  rw [if_pos hw] at h
  obtain ⟨records, he, hall⟩ := h
  refine ⟨records ++ [bytes], by rw [he]; rfl, ?_⟩
  intro r hm
  rcases List.mem_append.mp hm with hm | hm
  · exact hall r hm
  · rw [List.mem_singleton.mp hm]; exact hr

theorem CaptureStreamInv.sendMessage {s : State} (h : CaptureStreamInv s) (m : Bytes) :
    (sendMessage m s).Ends CaptureStreamInv :=
  sendMessage_ends (h.attempt_tx _) ((h.attempt_tx _).fatalIO .tx)

end Sys2Proof.Machine
end

