-- ==== Sys2Proof/Laws/Trace.lean ====
section
/-! SUPPORT. How a line of a trace becomes an input (R90): a line that is an event ends with no closing parenthesis, so a
failure mark behind it is never taken for a part of it. -/

namespace Sys2Proof.Machine

/-! ### The last byte of a line -/

/-- The part of a line that stands at its end ends with the same byte. -/
theorem suffix_last {c : Byte} {bs r : Bytes} (h : bs.getLast? = some c) (hr : r <:+ bs) : r = [] ∨ r.getLast? = some c := by
  obtain ⟨l, rfl⟩ := hr
  rcases List.eq_nil_or_concat r with rfl | ⟨a, b, rfl⟩
  · exact .inl rfl
  · exact .inr (by simpa [← List.append_assoc] using h)

theorem afterLead_suffix {lead bs r : Bytes} (h : afterLead lead bs = some r) : r <:+ bs :=
  ⟨lead, (afterLead_some h).symm⟩

/-- What ends with a closing parenthesis, or is empty, is no decimal number. -/
theorem readDecimal_paren {r : Bytes} (h : r = [] ∨ r.getLast? = some 0x29) : readDecimal r = none := by
  rcases h with rfl | h
  · rfl
  · rcases List.eq_nil_or_concat r with rfl | ⟨a, b, rfl⟩
    · rfl
    · obtain rfl : b = 0x29 := by simpa using h
      have : ∀ o, decimalNext o 41#8 = none := by rintro (_ | a) <;> rfl
      simp [readDecimal, this]

/-- A line that ends with a closing parenthesis is no event (R90). -/
theorem decodeTrace_paren {bs : Bytes} (h : bs.getLast? = some 0x29) (i : Instr) : decodeTrace bs ≠ .row i := by
  have word : ∀ w : Bytes, w.getLast? ≠ some 0x29 → bs ≠ w := fun w hw e => hw (e ▸ h)
  unfold decodeTrace
  rw [if_neg (word _ (by decide)), if_neg (word _ (by decide)), if_neg (word _ (by decide)), if_neg (word _ (by decide)),
    if_neg (word _ (by decide))]
  split
  · rename_i r hr
    simp [readStart, readDecimal_paren (suffix_last h (afterLead_suffix hr))]
  · split
    · rename_i r hr
      have hs := afterLead_suffix hr
      unfold readRx
      split
      · rename_i a b tail
        rcases suffix_last h ((List.suffix_cons b tail).trans ((List.suffix_cons a _).trans hs)) with rfl | ht
        · have hl : b = 0x29 := by simpa using suffix_last h hs
          have hb : readHexDigit b = none := by rw [hl]; rfl
          simp [hb]
        · have : readStamp tail = none := by
            unfold readStamp
            rw [if_neg (by rintro rfl; simp at ht)]
            cases ha : afterLead wordAt tail with
            | none => rfl
            | some q =>
              have hq := readDecimal_paren (suffix_last ht
                (((List.tail_suffix _).trans (List.dropWhile_suffix (· ≠ charDot))).trans (afterLead_suffix ha)))
              rw [Option.bind_some]
              split
              · rename_i hu
                rw [hq] at hu
                cases hu
              · rfl
          simp [this]
      · simp
    · simp

/-! ### Lines with and without a mark -/

/-- What stands before a mark, where a line ends with it. -/
theorem beforeMark_append (mark bs : Bytes) : beforeMark mark (bs ++ mark) = some bs := by simp [beforeMark]

/-- A line whose last byte is not the mark's does not end with the mark. -/
theorem beforeMark_none {mark bs : Bytes} (hm : mark.getLast? = some 0x29) (h : bs.getLast? ≠ some 0x29) :
    beforeMark mark bs = none := by
  unfold beforeMark
  rw [if_neg]
  intro e
  have hb : bs = bs.take (bs.length - mark.length) ++ mark := by
    conv_lhs => rw [← List.take_append_drop (bs.length - mark.length) bs, e]
  apply h
  rw [hb, List.getLast?_append, hm]
  rfl

theorem event_line_last {bs : Bytes} {i : Instr} (h : decodeTrace bs = .row i) : bs.getLast? ≠ some 0x29 :=
  fun hl => decodeTrace_paren hl i h

/-- A line that is an event is the input of that event, every write `ok` (R90). -/
theorem readLine_event {bs : Bytes} {i : Instr} (h : decodeTrace bs = .row i) : readLine bs = some (okInput i) := by
  rw [readLine, beforeMark_none rfl (event_line_last h)]
  dsimp only
  rw [beforeMark_none rfl (event_line_last h)]
  simp only [lineInput, h, okInput]

/-- With the mark of TX the first write on TX fails (R90). -/
theorem readLine_failTx {bs : Bytes} {i : Instr} (h : decodeTrace bs = .row i) :
    readLine (bs ++ markFailTx) = some ⟨.instr i, ⟨0, 0⟩, [.fail], []⟩ := by
  rw [readLine, beforeMark_append]
  simp only [lineInput, h]

/-- With the mark of SINK the first write on SINK fails (R90). -/
theorem readLine_failSink {bs : Bytes} {i : Instr} (h : decodeTrace bs = .row i) :
    readLine (bs ++ markFailSink) = some ⟨.instr i, ⟨0, 0⟩, [], [.fail]⟩ := by
  have hn : beforeMark markFailTx (bs ++ markFailSink) = none := by
    unfold beforeMark
    rw [if_neg]
    have hl : (bs ++ markFailSink).length - markFailTx.length = bs.length + 2 := by
      simp only [List.length_append, show markFailSink.length = 12 from rfl, show markFailTx.length = 10 from rfl]
      omega
    rw [hl, List.drop_append, List.drop_eq_nil_of_le (by omega)]
    simp [markFailSink, markFailTx]
  rw [readLine, hn]
  dsimp only
  rw [beforeMark_append]
  simp only [lineInput, h]

end Sys2Proof.Machine
end

