-- ==== Sys2Proof/Tests/Slice0.lean ====
section
/-! SUPPORT. Small checks of single steps and single words; expected values are the spec's own (95_test_vectors, named by
their ids) or written out from the formats of 30_encoding. "[T]" in 95_test_vectors: the value holds for the default table of
R106, which the reset state holds. After them: one ill-formed term for each check of WellFormed, and states and operands that
meet the hypotheses of the statements of Obligations.lean, clause by clause, at the ends of their ranges. -/

set_option Elab.async false

namespace Sys2Proof.Tests

open Sys2Proof Sys2Proof.Machine
open Host (Outcome)

/-! ### Small states -/

/-- After HDR (95_test_vectors P1, step 1). -/
def idle : State := { State.reset with hdrWritten := true }

/-- In the connect phase (P1, step 2). -/
def dialing : State := { idle with phase := .connecting, channel := 11 }

/-- In the receive loop, nothing accepted yet (P1, step 5). -/
def linked : State := { idle with phase := .connected, channel := 11, expectedSeqNr := 1 }

/-- The start state A of V4. -/
def stateA : State :=
  { linked with expectedSeqNr := 5, lastIndex := 4, lastSeqNr := 4, unackedByteCount := 10 }

/-- A fatal error is latched. -/
def latched : State := { idle with fatal := true }

/-- Inside a frame or a run, with these raw bytes accumulated. -/
def inside (s : State) (run : Bytes) : State := { s with receiving := true, rxBuf := run }

/-- With a `fail` draw next on TX. -/
def txFails (s : State) : State := { s with txDraws := [.fail] }

/-- With a `fail` draw next on SINK. -/
def sinkFails (s : State) : State := { s with sinkDraws := [.fail] }

/-- A payload or a run of zeros. -/
def zeros (n : Nat) : Bytes := List.replicate n 0

@[simp] theorem zeros_length (n : Nat) : (zeros n).length = n := List.length_replicate

theorem zeros_ne_nil (n : Nat) : zeros (n + 1) ≠ [] := by simp [zeros, List.replicate_succ]

/-- The answer of a row, where it is a next state, seen through `f`. -/
def seen {α : Type} (o : Outcome State Fault Refusal) (f : State → α) : Option α :=
  match o with
  | .next t => some (f t)
  | .fault _ => none
  | .refused _ => none

/-- The refusal of a row. -/
def refusal (o : Outcome State Fault Refusal) : Option Refusal :=
  match o with
  | .next _ => none
  | .fault _ => none
  | .refused r => some r

/-- The run of the frame of READY [T] (S1). -/
def readyRun : Bytes := [0x52, 0x45, 0x41, 0x44, 0x59, 0xB2, 0x2D]

/-- The run of the frame of packet (5, 5, 80) [T] (V6). -/
def packetRun : Bytes := [0x00, 0x05, 0x00, 0x05, 0x80, 0xC3, 0x34]

/-! ### Checksum and framer -/

theorem test_crcstep_cuts_to_16_bits : crcStep defaultCrcTable 0xFFFF 0xFF = 0xFF00 := by decide +kernel  -- V1.6
theorem test_crcstep : crcStep defaultCrcTable 0x1234 0x56 = 0x3C40 := by decide +kernel                  -- V1.5
theorem test_crc16_empty : seen (exec (.crc16 []) State.reset) State.result = some (.half 0xFFFF) := by decide  -- V1.1
theorem test_crc16_check_value :                                                                          -- V1.10
    crc16 defaultCrcTable [0x31, 0x32, 0x33, 0x34, 0x35, 0x36, 0x37, 0x38, 0x39] = 0x29B1 := by decide +kernel
theorem test_stuff_escapes : stuff 0x7E = [0x7D, 0x5E] ∧ stuff 0x7D = [0x7D, 0x5D] := by decide           -- V2.1, V2.2
theorem test_stuff_keeps : stuff 0x5E = [0x5E] ∧ stuff 0x7C = [0x7C] ∧ stuff 0x7F = [0x7F] := by decide   -- V2.3
theorem test_stuffseq : stuffSeq [0x7E, 0x41, 0x7D] = [0x7D, 0x5E, 0x41, 0x7D, 0x5D] := by decide         -- V2.4
theorem test_encode_crc_byte_escaped :                                                                    -- V2.8
    encodeFrame defaultCrcTable [0x7E] = [0x7E, 0x7D, 0x5E, 0x7D, 0x5E, 0xA9, 0x7E] := by decide +kernel
theorem test_encode_both_crc_bytes_escaped :                                                              -- V2.25
    encodeFrame defaultCrcTable [0x07, 0xB7, 0x07, 0xB7, 0x01, 0x02, 0x03] =
      [0x7E, 0x07, 0xB7, 0x07, 0xB7, 0x01, 0x02, 0x03, 0x7D, 0x5D, 0x7D, 0x5E, 0x7E] := by decide +kernel
theorem test_mkrst : mkRst 11 = [0x52, 0x53, 0x54, 0x0B] := by decide                                     -- V2.19
theorem test_mkack : mkAck 3 9 = [0x41, 0x43, 0x4B, 0x00, 0x03, 0x00, 0x09] := by decide                  -- V2.19
theorem test_mknack : mkNack 3 9 = [0x4E, 0x41, 0x43, 0x4B, 0x00, 0x03, 0x00, 0x09] := by decide          -- V2.19
theorem test_mkpacket : mkPacket 258 772 [0xAA, 0x80] = [0x01, 0x02, 0x03, 0x04, 0xAA, 0x80] := by decide -- V2.20
theorem test_mkstop_frame :                                                                               -- V2.12
    encodeFrame defaultCrcTable mkStop = [0x7E, 0x53, 0x54, 0x4F, 0x50, 0xAF, 0x2E, 0x7E] := by decide +kernel

/-! ### Deframer -/

theorem test_unstuff_escape_of_escape : unstuff [0x7D, 0x7D] = some [0x5D] := by decide                   -- V3.5
theorem test_unstuff_dangling : unstuff [0x7D, 0x7D, 0x7D] = none := by decide                            -- V3.6
theorem test_decode_bad_crc :                                                                             -- S5
    seen (exec (.decode [0x52, 0x45, 0x41, 0x44, 0x59, 0xB2, 0x2C] false) State.reset) State.outputs =
      some [.warn (.checksumFailure 0xB22C 0xB22D)] := by decide +kernel
theorem test_decode_escaped_crc :                                                                         -- V3.11
    (deframe defaultCrcTable [0x07, 0xB7, 0x07, 0xB7, 0x01, 0x02, 0x03, 0x7D, 0x5D, 0x7D, 0x5E]).1 =
      .ok [0x07, 0xB7, 0x07, 0xB7, 0x01, 0x02, 0x03] 0x7D7E := by decide +kernel
theorem test_decode_quiet :                                                                               -- V3.14
    seen (exec (.decode [0x52, 0x53, 0x54, 0x0B, 0x68, 0x1D] true) State.reset) State.outputs = some [] := by decide +kernel
theorem test_seqnext_wraps : seqNext 65535 = 1 ∧ seqNext 65534 = 65535 ∧ seqNext 0 = 1 := by decide       -- V4.32
theorem test_parsepkt : parsePkt [0x41, 0x43, 0x4B, 0x00, 0x03, 0x00, 0x09] = (0x4143, 0x4B00, [0x03, 0x00, 0x09]) := by  -- V4.33
  decide

/-! ### Capture sink -/

theorem test_globalheader : globalHeaderBytes =                                                           -- V5.1
    [0xA1, 0xB2, 0xC3, 0xD4, 0, 2, 0, 4, 0, 0, 0, 0, 0, 0, 0, 0, 0, 0, 0xFF, 0xFF, 0, 0, 0, 0xC3] := by decide
theorem test_record : recordBytes 0x5F5E1000 999999 [1, 2, 3] =                                           -- V5.4
    [0x5F, 0x5E, 0x10, 0x00, 0x00, 0x0F, 0x42, 0x3F, 0, 0, 0, 3, 0, 0, 0, 3, 1, 2, 3] := by decide

/-! ### Procedures and the fatal path -/

theorem test_connect : seen (exec .connect stateA) (fun t => (t.expectedSeqNr, t.lastSeqNr, t.unackedByteCount)) =  -- R163
    some (1, 0, 0) := by decide
theorem test_peerreset : seen (exec .peerreset stateA) (fun t => (t.phase, t.outputs)) =                  -- R171
    some (.connecting, [.signal .peerReset]) := by decide
theorem test_close_dangling :                                                                             -- V4.7
    seen (exec (.close [0x00, 0x05, 0x00, 0x05, 0x80, 0x11, 0x7D] ⟨0, 0⟩) stateA) State.outputs =
      some [.warn .danglingEscape, .emission .tx
        [0x7E, 0x4E, 0x41, 0x43, 0x4B, 0x00, 0x04, 0x00, 0x04, 0xF9, 0x51, 0x7E] .ok] := by decide +kernel
theorem test_match_case249_no_ack :                                                                           -- V4.14
    seen (exec (.matchPacket 10 10 [0x80] 5 ⟨7, 1⟩) { stateA with expectedSeqNr := 10, unackedByteCount := 244 })
      (fun t => (t.expectedSeqNr, t.unackedByteCount, t.outputs)) =
      some (11, 249, [.emission .sink [0, 0, 0, 7, 0, 0, 0, 1, 0, 0, 0, 1, 0, 0, 0, 1, 0x80] .ok]) := by decide +kernel
theorem test_match_case254_resets_to_0 :                                                                      -- V4.16
    seen (exec (.matchPacket 10 10 [0x80] 5 ⟨7, 1⟩) { stateA with expectedSeqNr := 10, unackedByteCount := 249 })
      (fun t => (t.unackedByteCount, t.outputs.getLast?)) =
      some (0, some (.emission .tx [0x7E, 0x41, 0x43, 0x4B, 0x00, 0x0A, 0x00, 0x0A, 0xAB, 0xAF, 0x7E] .ok)) := by
  decide +kernel
theorem test_mismatch_acknowledges_the_older :                                                            -- V4.9
    seen (exec (.mismatch 11 5) { stateA with expectedSeqNr := 10, lastIndex := 3, lastSeqNr := 9, unackedByteCount := 245 })
      (fun t => (t.expectedSeqNr, t.unackedByteCount, t.outputs)) =
      some (10, 0, [.warn (.seqMismatch 11 10),
        .emission .tx [0x7E, 0x41, 0x43, 0x4B, 0x00, 0x03, 0x00, 0x09, 0x05, 0x5D, 0x7E] .ok]) := by decide +kernel
theorem test_ackcheck_withheld :                                                                          -- V4.12
    seen (exec (.ackcheck 5) { linked with unackedByteCount := 248 }) (fun t => (t.unackedByteCount, t.outputs)) =
      some (253, []) := by decide
theorem test_sendack : seen (exec .sendack { stateA with lastIndex := 3, lastSeqNr := 9 }) State.outputs =  -- V2.14
    some [.emission .tx [0x7E, 0x41, 0x43, 0x4B, 0x00, 0x03, 0x00, 0x09, 0x05, 0x5D, 0x7E] .ok] := by decide +kernel
theorem test_sendnack_right_after_connect : seen (exec .sendnack linked) State.outputs =                  -- V4.5
    some [.emission .tx [0x7E, 0x4E, 0x41, 0x43, 0x4B, 0, 0, 0, 0, 0x65, 0x15, 0x7E] .ok] := by decide +kernel
theorem test_write_record : seen (exec (.writeRecord 1 2 [0xAA, 0xBB, 0x80]) linked) State.outputs =      -- V5.2
    some [.emission .sink [0, 0, 0, 1, 0, 0, 0, 2, 0, 0, 0, 3, 0, 0, 0, 3, 0xAA, 0xBB, 0x80] .ok] := by decide
theorem test_sink_failure_in_match :                                                                      -- V6.1
    seen (exec (.matchPacket 5 5 [0x80] 5 ⟨1, 0⟩) (sinkFails stateA))
      (fun t => (t.phase, t.expectedSeqNr, t.unackedByteCount, t.fatal)) = some (.stopping, 6, 10, true) := by decide +kernel
theorem test_sink_failure_sends_stop : seen (exec (.fatalIO .sink) stateA) State.outputs =                -- R245, V6.1
    some [.signal .sinkWriteFail,
      .emission .tx [0x7E, 0x53, 0x54, 0x4F, 0x50, 0xAF, 0x2E, 0x7E] .ok] := by decide +kernel
theorem test_tx_failure_keeps_the_count :                                                                 -- V6.3
    seen (exec (.matchPacket 5 5 [0x80] 5 ⟨1, 0⟩) (txFails { stateA with unackedByteCount := 245 }))
      (fun t => (t.unackedByteCount, t.fatal, t.outputs.getLast?)) = some (250, true, some (.signal .txWriteFail)) := by
  decide +kernel

/-! ### Events -/

theorem test_reset_leaves_fatal : seen (exec .reset latched) (fun t => (t.fatal, t.hdrWritten)) = some (false, false) := by
  decide                                                                                                  -- R270
theorem test_hdr : seen (exec .hdr State.reset) State.hdrWritten = some true := by decide                 -- V5.9
theorem test_hdr_failure : seen (exec .hdr (sinkFails State.reset)) (fun t => (t.hdrWritten, t.fatal)) =  -- V6.6
    some (false, true) := by decide +kernel
theorem test_start : seen (exec (.start 26) idle) (fun t => (t.phase, t.channel, t.outputs)) =            -- V6.10
    some (.connecting, 26, [.emission .tx [0x7E, 0x52, 0x53, 0x54, 0x1A, 0x6A, 0x0D, 0x7E] .ok]) := by decide +kernel
theorem test_start_channel_range : refusal (exec (.start 10) idle) = some .channelOutOfRange ∧            -- V6.9
    refusal (exec (.start 27) idle) = some .channelOutOfRange := by decide
theorem test_window_cuts_the_run :                                                                        -- V4.24
    seen (exec .window (inside dialing [0x52, 0x45, 0x41])) (fun t => (t.receiving, t.rxBuf, t.outputs)) =
      some (false, [], [.emission .tx [0x7E, 0x52, 0x53, 0x54, 0x0B, 0x68, 0x1D, 0x7E] .ok]) := by decide +kernel
theorem test_rx_dropped : seen (exec (.rx 0x41 ⟨0, 0⟩) stateA) State.outputs = some [.warn (.byteDropped 0x41)] := by  -- V4.1
  decide
theorem test_rx_closes_a_packet :                                                                         -- V6.1 without the failure
    seen (exec (.rx 0x7E ⟨1, 0⟩) (inside stateA packetRun)) (fun t => (t.expectedSeqNr, t.lastIndex, t.unackedByteCount)) =
      some (6, 5, 15) := by decide +kernel
theorem test_timeout_with_empty_buffer :                                                                  -- V4.5
    seen (exec .timeout (inside linked [])) (fun t => (t.receiving, t.outputs)) =
      some (false, [.emission .tx [0x7E, 0x4E, 0x41, 0x43, 0x4B, 0, 0, 0, 0, 0x65, 0x15, 0x7E] .ok]) := by decide +kernel
theorem test_timeout_outside : seen (exec .timeout stateA) id = some stateA := by decide +kernel                 -- V4.6
theorem test_stopreq : seen (exec .stopreq stateA) (fun t => (t.phase, t.outputs)) =                      -- P2, step 5
    some (.stopping, [.emission .tx [0x7E, 0x53, 0x54, 0x4F, 0x50, 0xAF, 0x2E, 0x7E] .ok]) := by decide +kernel

/-! ### Rows that are byte patterns -/

theorem test_flag_opens : seen (exec .flag linked) State.receiving = some true := by decide               -- R166
theorem test_esc_is_raw : seen (exec .esc (inside linked [0x41])) State.rxBuf = some [0x41, 0x7D] := by decide  -- R167
theorem test_esc_flag_pair : seen (exec .escFlag (inside linked [])) State.rxBuf = some [0x7D, 0x5E] := by decide  -- R120
theorem test_esc_esc_pair : seen (exec .escEsc (inside linked [])) State.rxBuf = some [0x7D, 0x5D] := by decide  -- R120
theorem test_esc_any_pair : seen (exec (.escAny 0x41) (inside linked [])) State.rxBuf = some [0x7D, 0x41] := by decide  -- R143
theorem test_frame_of_a_packet :                                                                          -- S6 (a)
    seen (exec (.frame [0x00, 0x05, 0x00, 0x05, 0xAA, 0xBB, 0x80]) { stateA with unackedByteCount := 0 })
      (fun t => (t.expectedSeqNr, t.lastIndex, t.lastSeqNr, t.unackedByteCount)) = some (6, 5, 5, 7) := by decide +kernel
theorem test_rst_row : seen (exec (.rst 11) linked) State.outputs =                                       -- V2.13
    some [.emission .tx [0x7E, 0x52, 0x53, 0x54, 0x0B, 0x68, 0x1D, 0x7E] .ok] := by decide +kernel
theorem test_ready_connects : seen (exec .ready dialing) (fun t => (t.phase, t.expectedSeqNr)) = some (.connected, 1) := by
  decide +kernel                                                                                          -- P1, step 5
theorem test_ack_row : seen (exec (.ack 0x7E7D 0x7D7E) linked) State.outputs =                            -- V2.17
    some [.emission .tx [0x7E, 0x41, 0x43, 0x4B, 0x7D, 0x5E, 0x7D, 0x5D, 0x7D, 0x5D, 0x7D, 0x5E, 0x56, 0x0E, 0x7E] .ok] := by
  decide +kernel
theorem test_nack_row : seen (exec (.nack 0x007E 0x7D00) linked) State.outputs =                          -- V2.18
    some [.emission .tx [0x7E, 0x4E, 0x41, 0x43, 0x4B, 0x00, 0x7D, 0x5E, 0x7D, 0x5D, 0x00, 0xD8, 0x19, 0x7E] .ok] := by
  decide +kernel
theorem test_stop_row : seen (exec .stop linked) (fun t => t.outputs.length) = some 1 := by decide +kernel  -- R125
theorem test_packet_out_of_order : seen (exec (.packet 6 7 [0xAA, 0xBB, 0x80]) { stateA with unackedByteCount := 0 })  -- S6 (b)
    (fun t => (t.expectedSeqNr, t.unackedByteCount, t.outputs)) = some (5, 7, [.warn (.seqMismatch 7 5)]) := by decide +kernel
theorem test_global_header_row : seen (exec .globalHeader linked) State.outputs =                         -- R82
    some [.emission .sink globalHeaderBytes .ok] := by decide
theorem test_record_header_row : seen (exec (.recordHeader 0 1000000 [0x80]) linked) State.outputs =      -- V5.6
    some [.emission .sink [0, 0, 0, 0, 0, 0x0F, 0x42, 0x40, 0, 0, 0, 1, 0, 0, 0, 1, 0x80] .ok] := by decide

/-! ### Bytes that are no row have their effect (R86) -/

/-- `RXRUN 41 @ 20.5` is `RX 7E`, `RX 41`, `RX 7E @ 20.5` (R91); a line without a timestamp reads as one with 0.0 (log 19). -/
theorem test_rxrun_stamps_the_closing_delimiter : rxRun [0x41] ⟨20, 5⟩ =
    [okInput (.rx 0x7E ⟨0, 0⟩), okInput (.rx 0x41 ⟨0, 0⟩), okInput (.rx 0x7E ⟨20, 5⟩)] := by decide

/-- `7D 7E` inside a frame: a run that ends in an unpaired `7D`, rejected with a NACK (R86, R142). -/
theorem test_step_unpaired_escape :
    seen (step { inside linked [0x41] with inputs := [⟨.wire [0x7D, 0x7E], ⟨0, 0⟩, [], []⟩] }) (fun t => (t.receiving, t.outputs)) =
      some (false, [.warn .danglingEscape,
        .emission .tx [0x7E, 0x4E, 0x41, 0x43, 0x4B, 0, 0, 0, 0, 0x65, 0x15, 0x7E] .ok]) := by decide +kernel
/-- Two bytes outside a frame: each dropped with a warning (R86, R165). -/
theorem test_step_raw_bytes :
    seen (step { linked with inputs := [⟨.wire [0x00, 0x41], ⟨0, 0⟩, [], []⟩] }) State.outputs =
      some [.warn (.byteDropped 0x00), .warn (.byteDropped 0x41)] := by decide +kernel
/-- A message of four bytes from the peer: its frame is too short (R86, R145). -/
theorem test_step_short_message :
    seen (step { linked with inputs := [⟨.message [0x53, 0x54, 0x4F, 0x50], ⟨0, 0⟩, [], []⟩] }) (fun t => t.outputs.head?) =
      some (some (.warn (.frameTooShort 6))) := by decide +kernel
theorem test_word_no_row_arrives :
    seen (step (linked.withFetchWord 24 0x000141)) State.outputs =
      some [.warn (.byteDropped 0x00), .warn (.byteDropped 0x01), .warn (.byteDropped 0x41)] := by decide +kernel

/-! ### Words written out from the formats of 30_encoding -/

theorem test_word_reset : decode defaultCrcTable .trace [0x52, 0x45, 0x53, 0x45, 0x54] = .row .reset := by decide
theorem test_word_hdr : decode defaultCrcTable .trace [0x48, 0x44, 0x52] = .row .hdr := by decide
theorem test_word_start : decode defaultCrcTable .trace [0x53, 0x54, 0x41, 0x52, 0x54, 0x20, 0x32, 0x36] = .row (.start 26) := by
  decide
theorem test_word_window : decode defaultCrcTable .trace [0x57, 0x49, 0x4E, 0x44, 0x4F, 0x57] = .row .window := by decide
/-- `RX 7E @ 20.5` (R90). -/
theorem test_word_rx : decode defaultCrcTable .trace
    [0x52, 0x58, 0x20, 0x37, 0x45, 0x20, 0x40, 0x20, 0x32, 0x30, 0x2E, 0x35] = .row (.rx 0x7E ⟨20, 5⟩) := by decide
/-- `RX 4F`, the timestamp omitted (R90). -/
theorem test_word_rx_short : decode defaultCrcTable .trace [0x52, 0x58, 0x20, 0x34, 0x46] = .row (.rx 0x4F ⟨0, 0⟩) := by
  decide
theorem test_word_timeout : decode defaultCrcTable .trace [0x54, 0x49, 0x4D, 0x45, 0x4F, 0x55, 0x54] = .row .timeout := by
  decide
theorem test_word_stopreq : decode defaultCrcTable .trace [0x53, 0x54, 0x4F, 0x50, 0x52, 0x45, 0x51] = .row .stopreq := by
  decide
theorem test_word_flag : decode defaultCrcTable .wire [0x7E] = .row .flag := by decide
theorem test_word_esc : decode defaultCrcTable .wire [0x7D] = .row .esc := by decide
theorem test_word_esc_flag : decode defaultCrcTable .wire [0x7D, 0x5E] = .row .escFlag := by decide
theorem test_word_esc_esc : decode defaultCrcTable .wire [0x7D, 0x5D] = .row .escEsc := by decide
theorem test_word_esc_any : decode defaultCrcTable .wire [0x7D, 0x20] = .row (.escAny 0x20) := by decide
theorem test_word_esc_delimiter : decode defaultCrcTable .wire [0x7D, 0x7E] = .error .delimiterInEscapePair := by decide
theorem test_word_frame :                                                                                 -- V2.7
    decode defaultCrcTable .wire [0x7E, 0x00, 0xE1, 0xF0, 0x7E] = .row (.frame [0x00]) := by decide +kernel
theorem test_word_frame_bad_crc :
    decode defaultCrcTable .wire [0x7E, 0x00, 0xE1, 0xF1, 0x7E] = .error .noWireRow := by decide +kernel
theorem test_word_rst : decode defaultCrcTable .toPeer [0x52, 0x53, 0x54, 0x1A] = .row (.rst 26) := by decide
theorem test_word_ready : decode defaultCrcTable .fromPeer [0x52, 0x45, 0x41, 0x44, 0x59] = .row .ready := by decide
theorem test_word_ack : decode defaultCrcTable .toPeer [0x41, 0x43, 0x4B, 0x01, 0x02, 0x03, 0x04] = .row (.ack 0x0102 0x0304) := by
  decide
theorem test_word_nack :
    decode defaultCrcTable .toPeer [0x4E, 0x41, 0x43, 0x4B, 0x01, 0x02, 0x03, 0x04] = .row (.nack 0x0102 0x0304) := by decide
theorem test_word_stop : decode defaultCrcTable .toPeer [0x53, 0x54, 0x4F, 0x50] = .row .stop := by decide
theorem test_word_packet :
    decode defaultCrcTable .fromPeer [0x01, 0x02, 0x03, 0x04, 0xAA, 0x80] = .row (.packet 0x0102 0x0304 [0xAA, 0x80]) := by decide
theorem test_word_short_message : decode defaultCrcTable .fromPeer [0x53, 0x54, 0x4F, 0x50] = .error .messageTooShort := by
  decide
theorem test_word_global_header : decode defaultCrcTable .capture
    [0xA1, 0xB2, 0xC3, 0xD4, 0, 2, 0, 4, 0, 0, 0, 0, 0, 0, 0, 0, 0, 0, 0xFF, 0xFF, 0, 0, 0, 0xC3] = .row .globalHeader := by decide
theorem test_word_record : decode defaultCrcTable .capture
    [0, 0, 0, 1, 0, 0, 0, 2, 0, 0, 0, 3, 0, 0, 0, 3, 0xAA, 0xBB, 0x80] = .row (.recordHeader 1 2 [0xAA, 0xBB, 0x80]) := by decide
/-- The two length fields of a record must agree (R83). -/
theorem test_word_record_lengths : decode defaultCrcTable .capture
    [0, 0, 0, 1, 0, 0, 0, 2, 0, 0, 0, 3, 0, 0, 0, 2, 0xAA, 0xBB, 0x80] = .error .noCaptureHeader := by decide

/-! ### WellFormed refuses: one ill-formed term a check -/

theorem smoke_mkrst : (Instr.mkrst 10).wf = false ∧ (Instr.mkrst 27).wf = false := by decide
theorem smoke_mkpacket : (Instr.mkpacket 1 1 []).wf = false := by decide
theorem smoke_unstuff : (Instr.unstuff [0x7E]).wf = false := by decide
theorem smoke_decode : (Instr.decode [0x41, 0x7E] false).wf = false := by decide
theorem smoke_parsepkt : (Instr.parsepkt [1, 2, 3, 4]).wf = false := by decide
theorem smoke_record : (Instr.record 0 0 []).wf = false := by decide
theorem smoke_record_long : (Instr.record 0 0 (zeros 65536)).wf = false := by
  simp [Instr.wf, recordablePayload, maxPayload]
theorem smoke_close : (Instr.close [0x7E] ⟨0, 0⟩).wf = false := by decide
theorem smoke_match_payload : (Instr.matchPacket 1 1 [] 4 ⟨0, 0⟩).wf = false := by decide
theorem smoke_match_length : (Instr.matchPacket 1 1 [0x80] 4 ⟨0, 0⟩).wf = false := by decide
theorem smoke_mismatch : (Instr.mismatch 1 4).wf = false := by decide
theorem smoke_write_record : (Instr.writeRecord 0 0 []).wf = false := by decide
theorem smoke_start : (Instr.start 10).wf = false ∧ (Instr.start 27).wf = false := by decide
theorem smoke_esc_any : (Instr.escAny 0x7E).wf = false ∧ (Instr.escAny 0x5E).wf = false ∧ (Instr.escAny 0x5D).wf = false := by
  decide
theorem smoke_rst : (Instr.rst 10).wf = false ∧ (Instr.rst 27).wf = false := by decide
theorem smoke_packet_empty : (Instr.packet 1 1 []).wf = false := by decide
theorem smoke_packet_ready : (Instr.packet 0x5245 0x4144 [0x59]).wf = false := by decide
theorem smoke_record_header : (Instr.recordHeader 0 0 []).wf = false := by decide

/-! ### States and operands that meet the hypotheses of the statements

Each theorem names its statement and shows, for each clause that has hypotheses, values that meet them all together. -/

theorem witness_WellFormedRowsDecodeToThemselves :
    (Instr.start 26).wf = true ∧
      encode defaultCrcTable (.start 26) = some (.trace, [0x53, 0x54, 0x41, 0x52, 0x54, 0x20, 0x32, 0x36]) ∧
      (Instr.escAny 0x41).wf = true ∧ encode defaultCrcTable (.escAny 0x41) = some (.wire, [0x7D, 0x41]) ∧
      (Instr.packet 1 1 [0x80]).wf = true ∧
      encode defaultCrcTable (.packet 1 1 [0x80]) = some (.fromPeer, [0, 1, 0, 1, 0x80]) := by decide

theorem witness_DecodedBytesEncodeBack :
    Space.toPeer ≠ Space.trace ∧ decode defaultCrcTable .toPeer [0x52, 0x53, 0x54, 0x0B] = .row (.rst 11) := by decide

/-- One pending input given as a row, one as bytes of the line, one as a message of the peer; and a line of a trace. -/
theorem witness_StepRunsTheDecodedRow :
    ({ stateA with inputs := [okInput .timeout] } : State).inputs = okInput .timeout :: [] ∧
      (okInput .timeout).request = .instr .timeout ∧
      (⟨.wire [0x7E], ⟨0, 0⟩, [], []⟩ : Input).request = .wire [0x7E] ∧
      decode stateA.cfg.crcTable .wire [0x7E] = .row .flag ∧
      (⟨.message mkReady, ⟨0, 0⟩, [], []⟩ : Input).request = .message mkReady ∧
      decode stateA.cfg.crcTable .fromPeer mkReady = .row .ready ∧
      decode stateA.cfg.crcTable .trace [0x48, 0x44, 0x52] = .row .hdr := by decide

/-- No input; bytes and a message that are no row; a byte that is received and one that is refused. -/
theorem witness_StepReceivesEveryByteString :
    stateA.inputs = [] ∧ (⟨.wire [0x7D, 0x7E], ⟨0, 0⟩, [], []⟩ : Input).request = .wire [0x7D, 0x7E] ∧
      decode stateA.cfg.crcTable .wire [0x7D, 0x7E] = .error .delimiterInEscapePair ∧
      (⟨.message [0x00], ⟨0, 0⟩, [], []⟩ : Input).request = .message [0x00] ∧
      decode stateA.cfg.crcTable .fromPeer [0x00] = .error .messageTooShort ∧
      (seen (exec (.rx 0x7E ⟨0, 0⟩) stateA) State.receiving) = some true ∧
      refusal (exec (.rx 0x7E ⟨0, 0⟩) latched) = some .eventWhileFatal := by decide +kernel

theorem witness_PlacedTableWordRuns :
    readTableWord stateA.cfg.crcTable 16 0x7D5E = some (.wire, [0x7D, 0x5E], .escFlag) := by decide +kernel

theorem witness_BuildersYieldTheirMessages :
    11 ≤ (11 : Byte).toNat ∧ (11 : Byte).toNat ≤ 26 ∧ 11 ≤ (26 : Byte).toNat ∧ (26 : Byte).toNat ≤ 26 ∧
      ([0x80] : Bytes) ≠ [] := by decide

theorem witness_OperandsOutsideTheDomainRun :
    ((10 : Byte).toNat < 11 ∨ 26 < (10 : Byte).toNat) ∧ ((27 : Byte).toNat < 11 ∨ 26 < (27 : Byte).toNat) ∧
      ([1, 2, 3, 4] : Bytes).length < 5 := by decide

theorem witness_UnstuffScansLeftToRight : (0x7E : Byte) ≠ 0x7D ∧ (0x7C : Byte) ≠ 0x7D := by decide

theorem witness_DanglingEscapeIsRejected :
    unstuff [0x41, 0x7D] = none ∧ ([0x41, 0x7D] : Bytes) = [0x41] ++ [0x7D] ∧ unstuff [0x41] = some [0x41] ∧
      stateA.txDraws.headD .ok = .ok := by decide

/-- A dangling escape; 6 un-escaped bytes; 7 with the right and with a wrong checksum (V3.13, V3.16, S1, S5). -/
theorem witness_DecodeChecksLengthThenCrc :
    unstuff [0x7D] = none ∧
      unstuff [0x52, 0x53, 0x54, 0x0B, 0x68, 0x1D] = some [0x52, 0x53, 0x54, 0x0B, 0x68, 0x1D] ∧
      ([0x52, 0x53, 0x54, 0x0B, 0x68, 0x1D] : Bytes).length < 7 ∧
      unstuff readyRun = some ([0x52, 0x45, 0x41, 0x44, 0x59] ++ [0xB2, 0x2D]) ∧
      5 ≤ ([0x52, 0x45, 0x41, 0x44, 0x59] : Bytes).length ∧
      join16 0xB2 0x2D = crc16 defaultCrcTable [0x52, 0x45, 0x41, 0x44, 0x59] ∧
      join16 0xB2 0x2C ≠ crc16 defaultCrcTable [0x52, 0x45, 0x41, 0x44, 0x59] := by decide +kernel

theorem witness_DecodeOfEncodeIsTheMessage : 5 ≤ ([1, 2, 3, 4, 5] : Bytes).length ∧ ([1, 2, 3, 4] : Bytes).length ≤ 4 := by
  decide

theorem witness_ParsePktSplitsTheHeader : ([0x80] : Bytes) ≠ [] := by decide

/-- READY; a rejected run with an `ok` draw; a packet in order and one out of order (S5, S6, S9). -/
theorem witness_CloseDispatchesTheRun :
    deframe stateA.cfg.crcTable readyRun = (.ok [0x52, 0x45, 0x41, 0x44, 0x59] 0xB22D, none) ∧
      deframe stateA.cfg.crcTable [0x7D] = (.reject .danglingEscape, some .danglingEscape) ∧
      stateA.txDraws.headD .ok = .ok ∧
      deframe stateA.cfg.crcTable packetRun = (.ok [0x00, 0x05, 0x00, 0x05, 0x80] 0xC334, none) ∧
      ([0x00, 0x05, 0x00, 0x05, 0x80] : Bytes) ≠ [0x52, 0x45, 0x41, 0x44, 0x59] ∧
      join16 0x00 0x05 = stateA.expectedSeqNr ∧ join16 0x00 0x05 ≠ linked.expectedSeqNr := by decide +kernel

/-- The longest payload; a count that ends at 249 and one that ends at 250; the number 0 is covered by `0 = 0`. -/
theorem witness_MatchCapturesThenAcknowledges :
    (zeros 65535).length ≤ 65535 ∧ (5 : Half) ≠ 0 ∧ stateA.sinkDraws.headD .ok = .ok ∧ stateA.unackedByteCount + 239 < 250 ∧
      250 ≤ stateA.unackedByteCount + 240 ∧ stateA.txDraws.headD .ok = .ok :=
  ⟨by simp, by decide, by decide, by decide, by decide, by decide⟩

/-- Below the threshold; no packet accepted yet; the threshold reached. -/
theorem witness_MismatchKeepsIdentifiers :
    stateA.cfg.mismatchAccumulates = true ∧ stateA.unackedByteCount + 239 < 250 ∧ linked.lastSeqNr = 0 ∧
      250 ≤ stateA.unackedByteCount + 240 ∧ stateA.lastSeqNr ≠ 0 ∧ stateA.txDraws.headD .ok = .ok := by decide

theorem witness_AckCheckCountsToTheThreshold :
    stateA.unackedByteCount + 239 < 250 ∧ linked.lastSeqNr = 0 ∧ 250 ≤ stateA.unackedByteCount + 240 ∧
      stateA.lastSeqNr ≠ 0 ∧ stateA.txDraws.headD .ok = .ok := by decide

theorem witness_AckAndNackCarryTheLastIdentifiers :
    stateA.lastIndex = join16 0x00 0x04 ∧ stateA.lastSeqNr = join16 0x00 0x04 ∧ stateA.txDraws.headD .ok = .ok := by decide

theorem witness_WriteRecordEmitsOneRecord :
    (zeros 65535).length ≤ 65535 ∧ linked.sinkDraws.headD .ok = .ok ∧ 65535 < (zeros 65536).length :=
  ⟨by simp, by decide, by simp⟩

theorem witness_CaptureFormatsAreBigEndian :
    ([0x80] : Bytes) ≠ [] ∧ ([0x80] : Bytes).length ≤ 65535 ∧ zeros 65535 ≠ [] ∧ (zeros 65535).length ≤ 65535 :=
  ⟨by decide, by decide, zeros_ne_nil 65534, by simp⟩

theorem witness_FatalIOLatches : idle.phase = .stopping ∧ dialing.phase ≠ .stopping ∧ linked.phase ≠ .stopping := by decide

theorem witness_FailedWriteAbandonsTheRule :
    ((sinkFails State.reset).fatal = false ∧ (sinkFails State.reset).hdrWritten = false ∧
        (sinkFails State.reset).sinkDraws.headD .ok = .fail ∧ (sinkFails State.reset).phase = .stopping) ∧
      ((txFails idle).fatal = false ∧ (txFails idle).hdrWritten = true ∧ legalChannel 11 ∧ legalChannel 26 ∧
        (txFails idle).phase ≠ .connected ∧ (txFails idle).txDraws.headD .ok = .fail) ∧
      (250 ≤ (txFails stateA).unackedByteCount + 240 ∧ (txFails stateA).lastSeqNr ≠ 0) ∧
      ((sinkFails stateA).phase = .connected ∧ ([0x80] : Bytes).length ≤ 65535 ∧
        (sinkFails stateA).sinkDraws.headD .ok = .fail) ∧
      ((txFails dialing).phase = .connecting ∧ legalChannel (txFails dialing).channel ∧ (txFails dialing).fatal = false ∧
        (txFails dialing).txDraws.headD .ok = .fail) ∧
      ((txFails (inside linked [])).phase = .connected ∧ (txFails (inside linked [])).receiving = true ∧
        (txFails (inside linked [])).fatal = false ∧ (txFails (inside linked [])).phase ≠ .stopping) ∧
      deframe (txFails linked).cfg.crcTable [0x7D] = (.reject .danglingEscape, some .danglingEscape) ∧
      ((txFails stateA).sinkDraws.headD .ok = .ok ∧ (5 : Half) ≠ 0 ∧ (txFails stateA).cfg.mismatchAccumulates = true) ∧
      ((sinkFails linked).fatal = false ∧ (sinkFails linked).sinkDraws.headD .ok = .fail) := by decide +kernel

theorem witness_HdrWritesTheHeaderOnce :
    State.reset.fatal = false ∧ State.reset.hdrWritten = false ∧ State.reset.sinkDraws.headD .ok = .ok ∧
      (sinkFails State.reset).sinkDraws.headD .ok = .fail ∧ (sinkFails State.reset).hdrWritten = false ∧ idle.fatal = false ∧ idle.hdrWritten = true := by decide

/-- Both phases START is accepted in, with the lowest and the highest channel; one state or channel for each refusal. -/
theorem witness_StartBeginsTheConnect :
    idle.fatal = false ∧ idle.hdrWritten = true ∧ 11 ≤ (11 : Byte).toNat ∧ (26 : Byte).toNat ≤ 26 ∧
      idle.phase ≠ .connected ∧ dialing.phase ≠ .connected ∧ dialing.hdrWritten = true ∧ idle.txDraws.headD .ok = .ok ∧
      State.reset.fatal = false ∧ State.reset.hdrWritten = false ∧ (10 : Byte).toNat < 11 ∧ 26 < (27 : Byte).toNat ∧
      linked.fatal = false ∧ linked.hdrWritten = true ∧ linked.phase = .connected := by
  decide

/-- One state for each refusal, at the first value beyond the contract: channels 10 and 27, a full buffer. -/
theorem witness_ContractViolationsAreRefused :
    (latched.fatal = true ∧ (Instr.stopreq).kind = .event ∧ Instr.stopreq ≠ .reset) ∧
      (State.reset.fatal = false ∧ State.reset.hdrWritten = false) ∧
      (idle.fatal = false ∧ idle.hdrWritten = true ∧ (10 : Byte).toNat < 11 ∧ 26 < (27 : Byte).toNat) ∧
      (linked.hdrWritten = true ∧ 11 ≤ (11 : Byte).toNat ∧ (11 : Byte).toNat ≤ 26 ∧ linked.phase = .connected) ∧
      ((inside { linked with cfg := { defaultConfig with bufMax := some 1 } } [0x41]).cfg.bufMax = some 1 ∧
        1 < (inside linked [0x41]).rxBuf.length + 1 ∧ (0x42 : Byte) ≠ 0x7E ∧ (inside linked [0x41]).receiving = true ∧
        (inside linked [0x41]).phase ≠ .stopping) ∧
      65535 < (zeros 65536).length :=
  ⟨by decide, by decide, by decide, by decide, by decide +kernel, by simp⟩

theorem witness_WindowResendsTheRst :
    dialing.fatal = false ∧ dialing.phase = .connecting ∧ 11 ≤ dialing.channel.toNat ∧ dialing.channel.toNat ≤ 26 ∧
      dialing.txDraws.headD .ok = .ok ∧ 11 ≤ (26 : Byte).toNat ∧ linked.phase ≠ .connecting ∧ idle.phase ≠ .connecting := by decide

theorem witness_StoppingIgnoresInput : idle.fatal = false ∧ idle.phase = .stopping := by decide

theorem witness_TimeoutInsideAFrameSendsNack :
    dialing.fatal = false ∧ dialing.phase = .connecting ∧ linked.phase = .connected ∧ linked.receiving = false ∧
      (inside linked []).phase = .connected ∧ (inside linked []).receiving = true ∧
      (inside linked []).txDraws.headD .ok = .ok := by decide

theorem witness_ByteOutsideAFrame :
    stateA.fatal = false ∧ stateA.phase = .connected ∧ stateA.receiving = false ∧ (0x7D : Byte) ≠ 0x7E := by decide

/-- A capacity the byte fills exactly, one it exceeds by one, no capacity, and an empty buffer. -/
theorem witness_ByteInsideAFrame :
    (inside stateA [0x41]).fatal = false ∧ (inside stateA [0x41]).phase = .connected ∧
      (inside stateA [0x41]).receiving = true ∧ (0x7D : Byte) ≠ 0x7E ∧ stateA.cfg.bufMax = none ∧
      (∀ k : Nat, some 2 = some k → (inside stateA [0x41]).rxBuf.length + 1 ≤ k) ∧
      (∃ k : Nat, some 1 = some k ∧ k < (inside stateA [0x41]).rxBuf.length + 1) ∧ (inside stateA []).rxBuf = [] :=
  ⟨by decide, by decide, by decide, by decide, by decide, fun k h => by cases h; decide, ⟨1, rfl, by decide⟩, by decide⟩

theorem witness_ClosingDelimiterClosesTheRun :
    (inside stateA [0x41]).fatal = false ∧ (inside stateA [0x41]).phase = .connected ∧
      (inside stateA [0x41]).receiving = true ∧ (inside stateA [0x41]).rxBuf ≠ [] := by decide

/-- Each clause of the connect phase: outside, inside, a delimiter outside, a READY run, an empty run. -/
theorem witness_ConnectPhaseScansForReady :
    dialing.fatal = false ∧ dialing.phase = .connecting ∧ dialing.receiving = false ∧ (0x00 : Byte) ≠ 0x7E ∧
      (inside dialing []).receiving = true ∧ dialing.cfg.bufMax = none ∧
      (∃ crc : Half, (deframe dialing.cfg.crcTable (inside dialing readyRun).rxBuf).1 = .ok [0x52, 0x45, 0x41, 0x44, 0x59] crc) ∧
      (∀ crc : Half, (deframe dialing.cfg.crcTable (inside dialing []).rxBuf).1 ≠ .ok [0x52, 0x45, 0x41, 0x44, 0x59] crc) :=
  ⟨by decide, by decide, by decide, by decide, by decide, by decide, ⟨0xB22D, by decide +kernel⟩, fun crc h => by cases h⟩

theorem witness_StopreqSendsStopOnce :
    dialing.fatal = false ∧ dialing.phase ≠ .stopping ∧ linked.phase ≠ .stopping ∧ linked.txDraws.headD .ok = .ok ∧
      idle.fatal = false ∧ idle.phase = .stopping := by decide

theorem witness_WireSymbolsAreReceived :
    linked.fatal = false ∧ linked.phase = .connected ∧ linked.receiving = false ∧
      (inside dialing []).phase ≠ .stopping ∧ (inside dialing []).receiving = true ∧
      (inside dialing []).cfg.bufMax = none ∧ (0x7D : Byte) ≠ 0x7E := by decide

theorem witness_OutboundRowsAreEmitted :
    linked.fatal = false ∧ linked.txDraws.headD .ok = .ok ∧ 11 ≤ (11 : Byte).toNat ∧ (26 : Byte).toNat ≤ 26 ∧
      linked.sinkDraws.headD .ok = .ok ∧ ([0x80] : Bytes).length ≤ 65535 := by decide

/-- READY, a packet in order, a packet out of order, and a message of four bytes. -/
theorem witness_FrameDeliversItsMessage :
    stateA.fatal = false ∧ stateA.phase = .connected ∧ stateA.receiving = false ∧ stateA.cfg.bufMax = none ∧
      ([0x52, 0x45, 0x41, 0x44, 0x59] : Bytes) = 0x52 :: 0x45 :: 0x41 :: 0x44 :: [0x59] ∧ ([0x59] : Bytes) ≠ [] ∧
      ([0x00, 0x05, 0x00, 0x05, 0x80] : Bytes) ≠ [0x52, 0x45, 0x41, 0x44, 0x59] ∧
      join16 0x00 0x05 = stateA.expectedSeqNr ∧ join16 0x00 0x07 ≠ stateA.expectedSeqNr ∧
      ([0x53, 0x54, 0x4F, 0x50] : Bytes).length < 5 ∧ stateA.txDraws.headD .ok = .ok := by decide

/-- A payload of one byte, the count ending at 249. -/
theorem witness_PacketInOrderIsCaptured :
    stateA.fatal = false ∧ stateA.phase = .connected ∧ stateA.receiving = false ∧ stateA.cfg.bufMax = none ∧
      1 ≤ ([0x80] : Bytes).length ∧ ([0x80] : Bytes).length ≤ 65535 ∧
      packetBytes 5 stateA.expectedSeqNr [0x80] ≠ [0x52, 0x45, 0x41, 0x44, 0x59] ∧ stateA.sinkDraws.headD .ok = .ok ∧
      ({ stateA with unackedByteCount := 244 } : State).unackedByteCount + (4 + ([0x80] : Bytes).length) < 250 := by decide

theorem witness_ReadyConnectsOrResets :
    dialing.fatal = false ∧ dialing.receiving = false ∧ dialing.cfg.bufMax = none ∧ dialing.phase = .connecting ∧
      linked.fatal = false ∧ linked.receiving = false ∧ linked.cfg.bufMax = none ∧ linked.phase = .connected := by decide

/-- The header written and the closing delimiter of a packet in order pending: the four invariants hold, and the step
answers a next state (V6, the frame of packet 5). -/
def closing : State :=
  { inside stateA packetRun with
    inputs := [okInput (.rx 0x7E ⟨1, 0⟩)]
    outputs := [.emission .sink globalHeaderBytes .ok] }

theorem closing_session : SessionInv closing := by constructor <;> decide +kernel

theorem closing_deliverable : closing.traceDeliverable := by
  intro x hx
  have hx : x = okInput (.rx 0x7E ⟨1, 0⟩) := by simpa [closing] using hx
  subst hx
  exact .inl rfl

theorem closing_tx : TxStreamInv closing := by
  intro e he
  have : closing.emissions .tx = [] := by decide +kernel
  rw [this] at he
  cases he

theorem closing_capture : CaptureStreamInv closing :=
  ⟨[], by decide +kernel, by simp⟩

theorem closing_steps : ∃ t : State, step closing = .next t := by
  have h : (seen (step closing) id).isSome = true := by decide +kernel
  unfold seen at h
  split at h
  · exact ⟨_, by assumption⟩
  · simp at h
  · simp at h

theorem witness_SessionInvariantIsKept :
    SessionInv closing ∧ closing.traceDeliverable ∧ ∃ t : State, step closing = .next t :=
  ⟨closing_session, closing_deliverable, closing_steps⟩

theorem witness_TxCarriesOnlyOutboundMessages :
    SessionInv closing ∧ closing.traceDeliverable ∧ TxStreamInv closing ∧ ∃ t : State, step closing = .next t :=
  ⟨closing_session, closing_deliverable, closing_tx, closing_steps⟩

theorem witness_CaptureIsHeaderThenRecords :
    SessionInv closing ∧ closing.traceDeliverable ∧ CaptureStreamInv closing ∧ ∃ t : State, step closing = .next t :=
  ⟨closing_session, closing_deliverable, closing_capture, closing_steps⟩

/-- The invariants hold right after reset with an event pending, and the step answers a next state. -/
theorem witness_invariants_from_reset :
    SessionInv { State.reset with inputs := [okInput .hdr] } ∧
      (seen (step { State.reset with inputs := [okInput .hdr] }) State.hdrWritten) = some true := by
  constructor
  · constructor <;> decide
  · decide

/-- An event that writes the expected number by CONNECT, one by MATCH, one that leaves it. -/
theorem witness_ExpectedNumberHasTwoWriters :
    (Instr.rx 0x7E ⟨0, 0⟩).kind = .event ∧ Instr.rx 0x7E ⟨0, 0⟩ ≠ .reset ∧
      seen (exec (.rx 0x7E ⟨0, 0⟩) (inside dialing readyRun)) State.expectedSeqNr = some 1 ∧
      seen (exec (.rx 0x7E ⟨0, 0⟩) (inside stateA packetRun)) State.expectedSeqNr = some 6 ∧
      seen (exec .timeout (inside stateA packetRun)) State.expectedSeqNr = some 5 := by decide +kernel

/-- Every line of R187: reset, START, READY in the connect phase, READY in the receive loop, STOPREQ, a failed write. -/
theorem witness_PhaseTransitions :
    seen (exec .reset stateA) State.phase = some .stopping ∧ seen (exec (.start 11) idle) State.phase = some .connecting ∧
      seen (exec (.rx 0x7E ⟨0, 0⟩) (inside dialing readyRun)) State.phase = some .connected ∧
      seen (exec (.rx 0x7E ⟨0, 0⟩) (inside stateA readyRun)) State.phase = some .connecting ∧
      seen (exec .stopreq stateA) State.phase = some .stopping ∧
      seen (exec .timeout (txFails (inside stateA [0x41]))) State.phase = some .stopping := by decide +kernel

theorem witness_ConstantsNeverChange :
    (seen (exec .reset stateA) State.cfg).isSome = true ∧ (seen (step closing) State.cfg).isSome = true := by decide +kernel

/-- A run that does not decode ends in the connect phase without a warning (V4.25). -/
theorem witness_ConnectPhaseNeverWarns :
    dialing.phase = .connecting ∧
      seen (exec (.rx 0x7E ⟨0, 0⟩) (inside dialing [0x52, 0x45, 0x41, 0x44, 0x59, 0xB2, 0x2C])) State.outputs = some [] := by
  decide +kernel

/-- Each event within the contract; for RX a run at the largest length. -/
theorem witness_EventsRunWithinTheContract :
    (inside linked (zeros 65541)).fatal = false ∧ (inside linked (zeros 65541)).cfg.bufMax = none ∧
      (inside linked (zeros 65541)).rxBuf.length ≤ 65541 ∧ idle.fatal = false ∧ idle.hdrWritten = true ∧
      legalChannel 11 ∧ legalChannel 26 ∧ idle.phase ≠ .connected ∧ State.reset.fatal = false ∧
      State.reset.hdrWritten = false ∧ (Instr.timeout).kind = .event ∧ (Instr.start 27).kind = .event :=
  ⟨rfl, rfl, (zeros_length 65541).le, by decide, by decide, by decide, by decide, by decide, by decide, by decide, rfl, rfl⟩

end Sys2Proof.Tests
end

section
/-! The checksum (40_checksum, R101 to R103): what a table read, CRCSTEP and CRC16 yield, and the two statements of that
family. -/

namespace Sys2Proof.Machine

/-! ### CRCSTEP -/

/-- The high byte of R5 as a number: a 16-bit value shifted right by 8 needs no mask. -/
@[simp] theorem hi8_toNat (v : Half) : (hi8 v).toNat = v.toNat / 256 := by
  have := v.isLt
  simp only [hi8, BitVec.toNat_setWidth, BitVec.toNat_ushiftRight, Nat.shiftRight_eq_div_pow]
  omega

/-- The index is always in range (R101), so the default of `getD` is never read. -/
theorem readTable_eq_getD (t : CrcTable) (i : Byte) : readTable t i = t.toList.getD i.toNat 0 := by
  have hlen : i.toNat < t.toList.length := by rw [Vector.length_toList]; exact i.isLt
  rw [List.getD_eq_getElem _ _ hlen, Vector.getElem_toList]
  rfl

theorem half_shiftLeft_8 (v : Half) : v <<< 8 = BitVec.ofNat 16 (v.toNat * 256) := by
  apply BitVec.eq_of_toNat_eq
  rw [BitVec.toNat_shiftLeft, BitVec.toNat_ofNat, Nat.shiftLeft_eq]

/-- CRCSTEP in arithmetic on numbers (R101). -/
theorem crcStep_eq_getD (t : CrcTable) (crc : Half) (b : Byte) :
    crcStep t crc b =
      t.toList.getD ((crc.toNat / 256) ^^^ b.toNat) 0 ^^^ BitVec.ofNat 16 (crc.toNat * 256) := by
  rw [crcStep, readTable_eq_getD, BitVec.toNat_xor, hi8_toNat, half_shiftLeft_8]

theorem exec_crcstep (crc : Half) (b : Byte) (s : State) :
    exec (.crcstep crc b) s = .next (s.setResult (.half (crcStep s.cfg.crcTable crc b))) := rfl

/-- Settles O7: the operation writes `crcStep` of the state's table, whose value in arithmetic is `crcStep_eq_getD`. -/
theorem crcStepReadsTheTable : Obligations.CrcStepReadsTheTable := by
  intro crc b s
  rw [exec_crcstep, crcStep_eq_getD]
  rfl

/-! ### CRC16 -/

/-- Empty input leaves the seed (R103). -/
@[simp] theorem crc16_nil (t : CrcTable) : crc16 t [] = 0xFFFF := rfl

/-- One more byte at the end is one more CRCSTEP on the value so far, with nothing applied after it (R102). -/
theorem crc16_concat (t : CrcTable) (m : Bytes) (b : Byte) : crc16 t (m ++ [b]) = crcStep t (crc16 t m) b := by
  simp only [crc16, crcFrom, List.foldl_concat]

theorem exec_crc16 (m : Bytes) (s : State) :
    exec (.crc16 m) s = .next (s.setResult (.half (crc16 s.cfg.crcTable m))) := rfl

/-- Settles O8: the accumulator after `m` is `crc16` of `m`, and `crc16_concat` is the step from it. -/
theorem crc16FoldsCrcStep : Obligations.Crc16FoldsCrcStep := by
  intro s m b
  refine ⟨?empty, _, _, exec_crc16 m s, exec_crc16 (m ++ [b]) s, ?step⟩
  case empty =>
    rw [exec_crc16, crc16_nil]
    rfl
  case step =>
    rw [exec_crcstep, ← crc16_concat]
    rfl

end Sys2Proof.Machine
end

section
/-! The framer (41_framer, R120 to R131): what STUFF, ENCODE and the message builders yield, and the three statements of
that family. -/

namespace Sys2Proof.Machine

/-! ### STUFF -/

theorem exec_stuff (b : Byte) (s : State) : exec (.stuff b) s = .next (s.setResult (.bytes (stuff b))) := rfl

/-- The three forms of `stuff_cases` as one value (R120). -/
theorem stuff_eq_ite (b : Byte) :
    stuff b = if b = 0x7E then [0x7D, 0x5E] else if b = 0x7D then [0x7D, 0x5D] else [b] := by
  rcases stuff_cases b with ⟨rfl, h⟩ | ⟨rfl, h⟩ | ⟨hf, he, h⟩
  · exact h
  · exact h
  · rw [h, if_neg hf, if_neg he]

/-- Settles O10: the operation writes `stuff b`, whose value by cases is `stuff_eq_ite`. -/
theorem stuffEscapesTwoBytes : Obligations.StuffEscapesTwoBytes := by
  intro b s
  rw [exec_stuff, stuff_eq_ite]
  rfl

/-! ### ENCODE -/

/-- The high byte of R5 in arithmetic on numbers. -/
theorem hi8_eq_ofNat (v : Half) : hi8 v = BitVec.ofNat 8 (v.toNat / 256) := by
  rw [← hi8_toNat, BitVec.ofNat_toNat, BitVec.setWidth_eq]

/-- The low byte of R5 in arithmetic on numbers. -/
theorem lo8_eq_ofNat (v : Half) : lo8 v = BitVec.ofNat 8 (v.toNat % 256) := by
  apply BitVec.eq_of_toNat_eq
  simp only [lo8, BitVec.toNat_setWidth, BitVec.toNat_ofNat]
  omega

/-- The frame written out (R122): the message and each byte of its checksum, the high one first, stuffed on their own. -/
theorem encodeFrame_eq (t : CrcTable) (m : Bytes) :
    encodeFrame t m =
      [0x7E] ++ m.flatMap stuff ++ stuff (hi8 (crc16 t m)) ++ stuff (lo8 (crc16 t m)) ++ [0x7E] := by
  simp only [encodeFrame, frameRun, stuffSeq, flagByte, List.append_assoc]

theorem exec_encode (m : Bytes) (s : State) :
    exec (.encode m) s = .next (s.setResult (.bytes (encodeFrame s.cfg.crcTable m))) := rfl

/-- Settles O12: the operation writes the frame of `encodeFrame_eq`, its checksum bytes in arithmetic on numbers. -/
theorem encodeBuildsTheFrame : Obligations.EncodeBuildsTheFrame := by
  intro m s
  rw [exec_encode, encodeFrame_eq, hi8_eq_ofNat, lo8_eq_ofNat]
  rfl

/-! ### The message builders -/

theorem mkAck_join16 (i0 i1 q0 q1 : Byte) :
    mkAck (join16 i0 i1) (join16 q0 q1) = [0x41, 0x43, 0x4B, i0, i1, q0, q1] := by
  rw [mkAck, be16_join16, be16_join16]
  rfl

theorem mkNack_join16 (i0 i1 q0 q1 : Byte) :
    mkNack (join16 i0 i1) (join16 q0 q1) = [0x4E, 0x41, 0x43, 0x4B, i0, i1, q0, q1] := by
  rw [mkNack, be16_join16, be16_join16]
  rfl

theorem packetBytes_join16 (i0 i1 q0 q1 : Byte) (payload : Bytes) :
    packetBytes (join16 i0 i1) (join16 q0 q1) payload = i0 :: i1 :: q0 :: q1 :: payload := by
  rw [packetBytes, be16_join16, be16_join16]
  rfl

theorem exec_mkrst (ch : Byte) (s : State) : exec (.mkrst ch) s = .next (s.setResult (.bytes (mkRst ch))) := rfl

theorem exec_mkack (idx seq : Half) (s : State) :
    exec (.mkack idx seq) s = .next (s.setResult (.bytes (mkAck idx seq))) := rfl

theorem exec_mknack (idx seq : Half) (s : State) :
    exec (.mknack idx seq) s = .next (s.setResult (.bytes (mkNack idx seq))) := rfl

theorem exec_mkpacket (idx seq : Half) (payload : Bytes) (s : State) :
    exec (.mkpacket idx seq payload) s = .next (s.setResult (.bytes (mkPacket idx seq payload))) := rfl

/-- Settles O15: each builder writes its message; RST needs the legal channel and a packet the payload, ACK, NACK and the
packet's header take the two bytes of each number, STOP and READY are fixed. -/
theorem buildersYieldTheirMessages : Obligations.BuildersYieldTheirMessages := by
  intro s i0 i1 q0 q1 ch payload
  refine ⟨?rst, ?ack, ?nack, ?stop, ?ready, ?packet⟩
  case rst =>
    intro hmin hmax
    rw [exec_mkrst, mkRst_legal ((legalChannel_iff ch).mpr ⟨hmin, hmax⟩)]
    rfl
  case ack =>
    rw [exec_mkack, mkAck_join16]
    rfl
  case nack =>
    rw [exec_mknack, mkNack_join16]
    rfl
  case stop => rfl
  case ready => rfl
  case packet =>
    intro hne
    rw [exec_mkpacket, mkPacket_eq hne, packetBytes_join16]
    rfl

end Sys2Proof.Machine
end

section
/-! The link state machine (43_link_state_machine, R163 to R185): what PARSEPKT, ACKCHECK, MATCH, CLOSE and a byte outside a
frame do, who writes the expected number, and the six statements of that family. -/

namespace Sys2Proof.Machine

/-! ### The rows as their procedures -/

theorem exec_parsepkt (msg : Bytes) (s : State) :
    exec (.parsepkt msg) s =
      .next (s.setResult (.packet (parsePkt msg).1 (parsePkt msg).2.1 (parsePkt msg).2.2)) := rfl

theorem exec_close (run : Bytes) (ts : Timestamp) (s : State) :
    exec (.close run ts) s = (closeRun run ts s).outcome := rfl

theorem exec_matchPacket (idx seq : Half) (payload : Bytes) (n : Nat) (ts : Timestamp) (s : State) :
    exec (.matchPacket idx seq payload n ts) s = (matchPacket idx seq payload n ts s).outcome := rfl

theorem exec_mismatch (seq : Half) (n : Nat) (s : State) :
    exec (.mismatch seq n) s = (mismatchPacket seq n s).outcome := rfl

theorem exec_ackcheck (n : Nat) (s : State) : exec (.ackcheck n) s = (ackCheck n s).outcome := rfl

theorem exec_rx_live {s : State} (hf : s.fatal = false) (b : Byte) (now : Timestamp) :
    exec (.rx b now) s = (rxRule b now s).outcome := rx_live hf b now

/-! ### PARSEPKT -/

/-- Settles O23: the operation writes the three parts of `parsePkt_cons`. -/
theorem parsePktSplitsTheHeader : Obligations.ParsePktSplitsTheHeader := by
  intro s i0 i1 q0 q1 payload hne
  rw [exec_parsepkt, parsePkt_cons i0 i1 q0 q1 hne]
  rfl

/-! ### A byte outside a frame -/

/-- A byte other than the delimiter, outside a frame, is dropped with a warning (R165). -/
theorem rxRule_drop {s : State} {b : Byte} (now : Timestamp) (hp : s.phase = .connected) (hr : s.receiving = false)
    (hb : b ≠ flagByte) : rxRule b now s = .go (s.warn (.byteDropped b)) := by
  simp [rxRule, hp, hr, rxOutside, hb]

/-- Settles O42: `rxRule_drop` is the byte, `rxRule_open` the delimiter. -/
theorem byteOutsideAFrame : Obligations.ByteOutsideAFrame := by
  intro s b now hf hp hr
  constructor
  · intro hb
    rw [exec_rx_live hf, rxRule_drop now hp hr hb]
    rfl
  · rintro rfl
    rw [exec_rx_live hf]
    exact congrArg Flow.outcome (rxRule_open now (by simp [hp]) hr)

/-! ### ACKCHECK -/

/-- ACKCHECK with an ACK due and an `ok` draw: the ACK is sent, then the count cleared (R176). -/
theorem ackCheck_sent {n : Nat} {s : State} (h : 250 ≤ s.unackedByteCount + n) (h0 : s.lastSeqNr ≠ 0)
    (ht : s.txDraws.headD .ok = .ok) :
    ackCheck n s = .go { s with
      unackedByteCount := 0
      txDraws := s.txDraws.tail
      outputs := s.outputs ++
        [.emission .tx (encodeFrame s.cfg.crcTable (mkAck s.lastIndex s.lastSeqNr)) .ok] } := by
  rw [ackCheck_due h h0, sendAck, sendMessage_ok (s := s.countBytes n) ht, Flow.andThen_go,
    attempt_tx (s := s.countBytes n) ht]
  rfl

/-- Settles O28: `ackCheck_quiet` counts only, `ackCheck_sent` acknowledges. -/
theorem ackCheckCountsToTheThreshold : Obligations.AckCheckCountsToTheThreshold := by
  intro s n
  constructor
  · intro h
    rw [exec_ackcheck, ackCheck_quiet h]
    rfl
  · intro h h0 ht
    rw [exec_ackcheck, ackCheck_sent h h0 ht]
    rfl

/-! ### MATCH -/

/-- MATCH whose record is written: the registers and the record first, then the ACK bookkeeping on what they left (R174). -/
theorem matchPacket_recorded {payload : Bytes} {s : State} (hl : payload.length ≤ 65535)
    (hs : s.sinkDraws.headD .ok = .ok) (idx seq : Half) (n : Nat) (ts : Timestamp) :
    matchPacket idx seq payload n ts s = ackCheck n { s.acceptPacket idx seq with
      sinkDraws := s.sinkDraws.tail
      outputs := s.outputs ++ [.emission .sink (recordOf ts.sec ts.usec payload) .ok] } := by
  have hw : writeRecord ts.sec ts.usec payload (s.acceptPacket idx seq) =
      .go ((s.acceptPacket idx seq).attempt .sink (recordOf ts.sec ts.usec payload)) := by
    rw [writeRecord, if_neg (show ¬ maxPayload < _ from Nat.not_lt.mpr hl),
      memWrite_ok (c := .sink) (s := s.acceptPacket idx seq) hs]
  rw [matchPacket, hw, Flow.andThen_go, attempt_sink (s := s.acceptPacket idx seq) hs]
  rfl

/-- Settles O26: behind the record of `matchPacket_recorded` stands ACKCHECK, which knows this packet's identifiers. -/
theorem matchCapturesThenAcknowledges : Obligations.MatchCapturesThenAcknowledges := by
  intro s idx seq payload n ts hl hs
  rw [exec_matchPacket, matchPacket_recorded hl hs]
  constructor
  · intro h
    rw [ackCheck_quiet h]
    rfl
  · intro h h0 ht
    rw [ackCheck_sent ?count ?number ?draw]
    case count => exact h
    case number => exact h0
    case draw => exact ht
    simp [State.acceptPacket]

/-! ### CLOSE -/

/-- A NACK with an `ok` draw: one emission, nothing else written (R179). -/
theorem sendNack_sent {s : State} (ht : s.txDraws.headD .ok = .ok) :
    sendNack s = .go { s with
      txDraws := s.txDraws.tail
      outputs := s.outputs ++
        [.emission .tx (encodeFrame s.cfg.crcTable (mkNack s.lastIndex s.lastSeqNr)) .ok] } := by
  rw [sendNack, sendMessage_ok ht, attempt_tx ht]

/-- A decoded packet goes to MATCH or to MISMATCH by its number, with the length of the whole message (R170, R173). -/
theorem takePacket_cons (i0 i1 q0 q1 : Byte) {payload : Bytes} (hne : payload ≠ []) (ts : Timestamp) (s : State) :
    takePacket (i0 :: i1 :: q0 :: q1 :: payload) ts s =
      if join16 q0 q1 = s.expectedSeqNr
      then matchPacket (join16 i0 i1) (join16 q0 q1) payload (4 + payload.length) ts s
      else mismatchPacket (join16 q0 q1) (4 + payload.length) s := by
  have hlen : (i0 :: i1 :: q0 :: q1 :: payload).length = 4 + payload.length := by
    simp only [List.length_cons]
    omega
  simp only [takePacket, parsePkt_cons i0 i1 q0 q1 hne, hlen]

/-- Settles O25: `closeRun_ready`, `closeRun_reject` and `closeRun_packet` are the three branches; DECODE guarantees the
packet a payload. -/
theorem closeDispatchesTheRun : Obligations.CloseDispatchesTheRun := by
  intro s run ts
  refine ⟨?ready, ?reject, ?nack, ?packet⟩
  case ready =>
    intro crc w hd
    rw [exec_close, closeRun_ready ts hd]
    rfl
  case reject =>
    intro r w hd
    rw [exec_close, closeRun_reject ts hd]
    rfl
  case nack =>
    intro r w hd ht
    rw [exec_close, closeRun_reject ts hd, sendNack_sent (s := s.warn w) ht]
    simp [State.warn, State.output]
  case packet =>
    intro i0 i1 q0 q1 payload crc w hd hr
    have hne : payload ≠ [] := by
      rintro rfl
      obtain ⟨-, -, h5, -⟩ := deframe_ok hd
      simp at h5
    rw [exec_close, closeRun_packet ts hd hr, takePacket_cons i0 i1 q0 q1 hne, exec_matchPacket, exec_mismatch]
    split <;> rfl

/-! ### The writers of the expected number -/

/-- A control frame leaves the expected number, whether its write succeeds or fails. -/
theorem sendMessage_expectedSeqNr (msg : Bytes) (s : State) :
    (sendMessage msg s).Ends fun t => t.expectedSeqNr = s.expectedSeqNr :=
  sendMessage_ends (by simp) (by simp [fatalIO_expectedSeqNr])

theorem ackCheck_expectedSeqNr (n : Nat) (s : State) :
    (ackCheck n s).Ends fun t => t.expectedSeqNr = s.expectedSeqNr :=
  ackCheck_ends (by simp) (by simp) (by simp [fatalIO_expectedSeqNr])

theorem mismatchPacket_expectedSeqNr (seq : Half) (n : Nat) (s : State) :
    (mismatchPacket seq n s).Ends fun t => t.expectedSeqNr = s.expectedSeqNr :=
  ackCheck_expectedSeqNr _ (s.warn _)

/-- MATCH advances the expected number before it writes, so also where a write fails (R174, R245). -/
theorem matchPacket_expectedSeqNr (idx seq : Half) (payload : Bytes) (n : Nat) (ts : Timestamp) (s : State) :
    (matchPacket idx seq payload n ts s).Ends fun t => t.expectedSeqNr = seqNext s.expectedSeqNr := by
  rcases writeRecord_cases ts.sec ts.usec payload (s.acceptPacket idx seq) with
    ⟨-, hw⟩ | ⟨-, -, hw⟩ | ⟨-, -, hw⟩ <;> rw [matchPacket, hw]
  · exact Flow.ends_refuse _ _
  · exact (ackCheck_expectedSeqNr n _).mono fun t ht => by simpa using ht
  · exact Flow.ends_dead (by simp [fatalIO_expectedSeqNr])

/-- CLOSE leaves the expected number, or the run decodes to the packet that carries it (R170 to R175). -/
theorem closeRun_expectedSeqNr (run : Bytes) (ts : Timestamp) (s : State) :
    (closeRun run ts s).Ends fun t =>
      t.expectedSeqNr = s.expectedSeqNr ∨
      (t.expectedSeqNr = seqNext s.expectedSeqNr ∧
        ∃ msg crc, deframe s.cfg.crcTable run = (.ok msg crc, none) ∧ msg ≠ mkReady ∧
          (parsePkt msg).2.1 = s.expectedSeqNr) := by
  rcases closeRun_cases run ts s with
    ⟨r, w, -, h⟩ | ⟨crc, -, h⟩ | ⟨a, b, c, d, p, crc, hd, hne, hr, ⟨he, h⟩ | ⟨-, h⟩⟩ <;> rw [h]
  · exact (sendMessage_expectedSeqNr _ (s.warn w)).mono fun _ => .inl
  · exact Flow.ends_go (.inl rfl)
  · refine (matchPacket_expectedSeqNr _ _ p _ ts s).mono fun t ht => .inr ⟨ht, _, crc, hd, hr, ?_⟩
    rw [parsePkt_cons a b c d hne, he]
  · exact (mismatchPacket_expectedSeqNr _ _ s).mono fun _ => .inl

/-- RX leaves the expected number, or is the delimiter that ends READY in the connect phase, or the one that closes the
run of the expected packet (R185). -/
theorem rxRule_expectedSeqNr (b : Byte) (now : Timestamp) (s : State) :
    (rxRule b now s).Ends fun t =>
      t.expectedSeqNr = s.expectedSeqNr ∨
      (s.phase = .connecting ∧ s.receiving = true ∧ t.phase = .connected ∧ t.expectedSeqNr = seqFirst ∧
        b = flagByte ∧ ∃ crc, (deframe s.cfg.crcTable s.rxBuf).1 = .ok mkReady crc) ∨
      (s.phase = .connected ∧ s.receiving = true ∧ t.expectedSeqNr = seqNext s.expectedSeqNr ∧
        b = flagByte ∧ ∃ msg crc, deframe s.cfg.crcTable s.rxBuf = (.ok msg crc, none) ∧ msg ≠ mkReady ∧
          (parsePkt msg).2.1 = s.expectedSeqNr) := by
  rcases rxRule_cases b now s with
    h | ⟨-, -, -, h⟩ | ⟨-, -, -, h⟩ | ⟨hp, hr, hb, h⟩ | ⟨-, -, -, h⟩ | ⟨-, -, -, -, h⟩ | ⟨hp, hr, hb, -, h⟩ <;> rw [h]
  · exact Flow.ends_go (.inl rfl)
  · exact appendByte_ends (.inl rfl)
  · exact Flow.ends_go (.inl rfl)
  · rcases endConnectRun_cases s with ⟨hready, he⟩ | ⟨-, he⟩ <;> rw [he]
    · exact Flow.ends_go (.inr (.inl ⟨hp, hr, rfl, rfl, hb, hready⟩))
    · exact Flow.ends_go (.inl rfl)
  · exact Flow.ends_go (.inl rfl)
  · exact Flow.ends_go (.inl rfl)
  · exact (closeRun_expectedSeqNr s.rxBuf now s.leaveFrame).mono fun t ht =>
      ht.imp id fun ⟨hn, hmsg⟩ => .inr ⟨hp, hr, hn, hb, hmsg⟩

/-- HDR leaves the expected number, a failed write included, and so do the four rules after it. -/
theorem hdrRule_expectedSeqNr (s : State) : (hdrRule s).Ends fun t => t.expectedSeqNr = s.expectedSeqNr :=
  hdrRule_ends (fun _ _ => rfl) fun _ _ => by simp [fatalIO_expectedSeqNr]

theorem startRule_expectedSeqNr (ch : Byte) (s : State) :
    (startRule ch s).Ends fun t => t.expectedSeqNr = s.expectedSeqNr :=
  startRule_ends fun _ _ _ => sendMessage_expectedSeqNr _ (s.beginConnect ch)

theorem windowRule_expectedSeqNr (s : State) : (windowRule s).Ends fun t => t.expectedSeqNr = s.expectedSeqNr :=
  windowRule_ends rfl fun _ => sendMessage_expectedSeqNr _ s.leaveFrame

theorem timeoutRule_expectedSeqNr (s : State) : (timeoutRule s).Ends fun t => t.expectedSeqNr = s.expectedSeqNr :=
  timeoutRule_ends rfl fun _ _ => sendMessage_expectedSeqNr _ s.leaveFrame

theorem stopreqRule_expectedSeqNr (s : State) : (stopreqRule s).Ends fun t => t.expectedSeqNr = s.expectedSeqNr :=
  stopreqRule_ends rfl fun _ => sendMessage_expectedSeqNr _ s.endSession

/-- Settles O56: of the events but reset only RX touches the expected number, and `rxRule_expectedSeqNr` says how. -/
theorem expectedNumberHasTwoWriters : Obligations.ExpectedNumberHasTwoWriters := by
  intro i s t hi hreset h
  apply event_ends hi h
  case hreset => exact fun hr => absurd hr hreset
  case hhdr => exact fun _ _ => (hdrRule_expectedSeqNr s).mono fun _ => .inl
  case hstart => exact fun ch _ _ => (startRule_expectedSeqNr ch s).mono fun _ => .inl
  case hwindow => exact fun _ _ => (windowRule_expectedSeqNr s).mono fun _ => .inl
  case htimeout => exact fun _ _ => (timeoutRule_expectedSeqNr s).mono fun _ => .inl
  case hstopreq => exact fun _ _ => (stopreqRule_expectedSeqNr s).mono fun _ => .inl
  case hrx =>
    rintro b now rfl -
    refine (rxRule_expectedSeqNr b now s).mono fun t ht => ?_
    rcases ht with hkeep | ⟨hp, hr, htp, he, rfl, crc, hd⟩ | ⟨hp, hr, he, rfl, msg, crc, hd, hm, hq⟩
    · exact .inl hkeep
    · exact .inr (.inl ⟨hp, hr, htp, he, now, crc, rfl, hd⟩)
    · exact .inr (.inr ⟨hp, hr, he, now, msg, crc, rfl, hd, hm, hq⟩)

end Sys2Proof.Machine
end

section
/-! The capture sink (44_capture_sink, R211 and R212): what GLOBALHEADER and RECORD yield, and the statement of that
family. -/

namespace Sys2Proof.Machine

/-! ### The record's bytes -/

/-- A length field in arithmetic on numbers (R83): within 16 bits no byte of the length is lost. -/
theorem lengthField_eq_ofNat {n : Nat} (h : n ≤ 65535) :
    lengthField n = [0, 0, BitVec.ofNat 8 (n / 256), BitVec.ofNat 8 (n % 256)] := by
  have hn : (BitVec.ofNat 16 n).toNat = n := by
    rw [BitVec.toNat_ofNat]
    exact Nat.mod_eq_of_lt (Nat.lt_succ_of_le h)
  rw [lengthField, be16, hi8_eq_ofNat, lo8_eq_ofNat, hn]
  rfl

theorem recordBytes_join32 (a b c d e f g h : Byte) (payload : Bytes) :
    recordBytes (join32 a b c d) (join32 e f g h) payload =
      [a, b, c, d] ++ [e, f, g, h] ++ lengthField payload.length ++ lengthField payload.length ++ payload := by
  rw [recordBytes, recordHeaderBytes, be32_join32, be32_join32]

/-! ### GLOBALHEADER and RECORD -/

theorem exec_globalheader (s : State) : exec .globalheader s = .next (s.setResult (.bytes globalHeaderBytes)) := rfl

/-- RECORD within the length the header can express (R212, R214). -/
theorem exec_record {payload : Bytes} (h : payload.length ≤ 65535) (sec usec : Long) (s : State) :
    exec (.record sec usec payload) s = .next (s.setResult (.bytes (recordOf sec usec payload))) :=
  if_neg (show ¬ maxPayload < payload.length from Nat.not_lt.mpr h)

/-- Settles O31: the header is constant; the record is `recordBytes_join32` with both lengths read off by
`lengthField_eq_ofNat`. -/
theorem captureFormatsAreBigEndian : Obligations.CaptureFormatsAreBigEndian := by
  intro s a b c d e f g h payload hne hlen
  refine ⟨?header, ?record⟩
  case header =>
    rw [exec_globalheader]
    rfl
  case record =>
    rw [exec_record hlen, recordOf_eq hne, recordBytes_join32, lengthField_eq_ofNat hlen]
    rfl

end Sys2Proof.Machine
end

section
/-! Encoding (30_encoding, R70 to R91): what the decoder reads from the bytes of each row and back, what a step does with
the input it takes, and the six statements of that family. -/

namespace Sys2Proof.Machine

/-! ### Messages the block sends -/

theorem decodeToPeer_rst (ch : Byte) : decodeToPeer (tagRst ++ [ch]) = .row (.rst ch) := by
  have hstop : tagRst ++ [ch] ≠ mkStop := by simp [tagRst, mkStop]
  rw [decodeToPeer, if_neg hstop, if_pos ⟨rfl, rfl⟩]
  rfl

theorem decodeToPeer_ack (idx seq : Half) : decodeToPeer (mkAck idx seq) = .row (.ack idx seq) := by
  obtain ⟨i0, i1, rfl⟩ := exists_join16 idx
  obtain ⟨q0, q1, rfl⟩ := exists_join16 seq
  rw [mkAck_join16, decodeToPeer, if_neg (by simp [mkStop]), if_neg (by simp), if_pos ⟨rfl, rfl⟩]
  rfl

theorem decodeToPeer_nack (idx seq : Half) : decodeToPeer (mkNack idx seq) = .row (.nack idx seq) := by
  obtain ⟨i0, i1, rfl⟩ := exists_join16 idx
  obtain ⟨q0, q1, rfl⟩ := exists_join16 seq
  rw [mkNack_join16, decodeToPeer, if_neg (by simp [mkStop]), if_neg (by simp), if_neg (by simp), if_pos ⟨rfl, rfl⟩]
  rfl

/-- Four bytes with the tag of an RST are the RST of the channel they hold (R74). -/
theorem encode_rst (t : CrcTable) {bs : Bytes} (hl : bs.length = 4) (ht : bs.take 3 = tagRst) :
    encode t (.rst (bs.getD 3 0)) = some (.toPeer, bs) := by
  have hlast : bs.drop 3 = [bs.getD 3 0] := by
    rw [List.drop_eq_getElem_cons (by omega), List.drop_eq_nil_of_le (by omega), List.getD_eq_getElem _ _ (by omega)]
  rw [encode, ← ht, ← hlast, List.take_append_drop]

/-! ### Messages of the peer and the capture stream -/

theorem decodeFromPeer_packet {idx seq : Half} {payload : Bytes} (h1 : 1 ≤ payload.length)
    (hr : packetBytes idx seq payload ≠ mkReady) :
    decodeFromPeer (packetBytes idx seq payload) = .row (.packet idx seq payload) := by
  rw [decodeFromPeer, if_neg hr]
  obtain ⟨i0, i1, rfl⟩ := exists_join16 idx
  obtain ⟨q0, q1, rfl⟩ := exists_join16 seq
  rw [packetBytes_join16, if_pos (by simp only [List.length_cons]; omega)]
  rfl

theorem decodeCapture_record {sec usec : Long} {payload : Bytes} (h : payload.length ≤ maxPayload) :
    decodeCapture (recordBytes sec usec payload) = .row (.recordHeader sec usec payload) := by
  obtain ⟨hdrop, hsec, husec⟩ := recordBytes_fields sec usec payload
  simp only [decodeCapture, hdrop, hsec, husec, recordBytes_ne_globalHeader, h, if_false, and_self, if_true]

/-! ### Wire pairs -/

theorem decodeWire_pair (t : CrcTable) (x : Byte) :
    decodeWire t [escByte, x] =
      if x = 0x5E then .row .escFlag
      else if x = 0x5D then .row .escEsc
      else if x = flagByte then .error .delimiterInEscapePair
      else .row (.escAny x) := by
  simp [decodeWire]

/-- A frame is longer than a wire symbol, so it is read as a frame (R70, R124). -/
theorem decodeWire_encodeFrame (t : CrcTable) (m : Bytes) : decodeWire t (encodeFrame t m) = .row (.frame m) := by
  have := encodeFrame_length t m
  rw [decodeWire_long (by omega), decodeFrame_encodeFrame]

/-! ### There and back -/

/-- Settles O1, row by row: the pure operations and the procedures have no bytes, each format has its reading lemma. -/
theorem wellFormedRowsDecodeToThemselves : Obligations.WellFormedRowsDecodeToThemselves := by
  intro t i sp bs hwf h
  cases i <;> simp only [encode, reduceCtorEq, Option.some.injEq, Prod.mk.injEq] at h <;> obtain ⟨rfl, rfl⟩ := h
  case start ch => rw [decode, decodeTrace_start, readStart_decimal]
  case rx b now =>
    have hline := (decodeTrace_rx _).trans (readRx_line b now)
    simpa only [decode, rxLine, List.append_assoc] using hline
  case escAny x =>
    obtain ⟨hflag, h5E, h5D⟩ := of_decide_eq_true hwf
    rw [decode, decodeWire_pair, if_neg h5E, if_neg h5D, if_neg hflag]
  case frame m => exact decodeWire_encodeFrame t m
  case rst ch => exact decodeToPeer_rst ch
  case ack idx seq => exact decodeToPeer_ack idx seq
  case nack idx seq => exact decodeToPeer_nack idx seq
  case packet idx seq payload =>
    obtain ⟨h1, hr⟩ := (Bool.and_eq_true _ _).mp hwf
    exact decodeFromPeer_packet (of_decide_eq_true h1) (of_decide_eq_true hr)
  case recordHeader sec usec payload =>
    obtain ⟨-, hmax⟩ := of_decide_eq_true hwf
    exact decodeCapture_record hmax
  all_goals rfl

theorem decodeToPeer_encodes {t : CrcTable} {bs : Bytes} {i : Instr} (h : decodeToPeer bs = .row i) :
    encode t i = some (.toPeer, bs) := by
  unfold decodeToPeer at h
  split at h
  case isTrue hstop => cases h; rw [hstop]; rfl
  case isFalse =>
    split at h
    case isTrue hrst => cases h; exact encode_rst t hrst.1 hrst.2
    case isFalse =>
      split at h
      case isTrue hack => cases h; exact encode_ack t hack.1 hack.2
      case isFalse =>
        split at h
        case isTrue hnack => cases h; exact encode_nack t hnack.1 hnack.2
        case isFalse => cases h

theorem decodeCapture_encodes {t : CrcTable} {bs : Bytes} {i : Instr} (h : decodeCapture bs = .row i) :
    encode t i = some (.capture, bs) := by
  unfold decodeCapture at h
  dsimp only at h
  split at h
  case isTrue hglobal => cases h; rw [hglobal]; rfl
  case isFalse =>
    split at h
    case isTrue hrecord => cases h; rw [encode, ← hrecord.2]
    case isFalse => cases h

/-- Settles O2, space by space: each row the decoder answers has the bytes it was read from. -/
theorem decodedBytesEncodeBack : Obligations.DecodedBytesEncodeBack := by
  intro t sp bs i hsp h
  cases sp
  case wire =>
    rcases decodeWire_row h with ⟨rfl, rfl⟩ | ⟨rfl, rfl⟩ | ⟨rfl, rfl⟩ | ⟨rfl, rfl⟩ | ⟨x, rfl, rfl⟩ | ⟨m, rfl, rfl⟩ <;> rfl
  case toPeer => exact decodeToPeer_encodes h
  case fromPeer => rcases decodeFromPeer_row h with ⟨rfl, rfl⟩ | ⟨idx, seq, payload, rfl, rfl⟩ <;> rfl
  case capture => exact decodeCapture_encodes h
  case trace => exact absurd rfl hsp

/-- Settles O3: each word is closed and short, and no word of the sample is a frame, so no table is read. -/
theorem sampleWordsDecode : Obligations.SampleWordsDecode := by
  intro t
  exact ⟨rfl, rfl, rfl, rfl, rfl, rfl, rfl, rfl, rfl, rfl, rfl⟩

/-! ### Steps -/

/-- The inputs that stand for a row: the row itself, its bytes on the line, or the message of the peer it is. -/
def Request.Means (t : CrcTable) (r : Request) (i : Instr) : Prop :=
  r = .instr i ∨ (∃ bs, r = .wire bs ∧ decode t .wire bs = .row i) ∨
    ∃ msg, r = .message msg ∧ decode t .fromPeer msg = .row i

/-- A step over an input that stands for a row runs the row in the state that has taken the input (R6). -/
theorem step_runs_row {s : State} {x : Input} {rest : List Input} {i : Instr} (hin : s.inputs = x :: rest)
    (hx : x.request.Means s.cfg.crcTable i) : step s = exec i (s.takeInput x rest) := by
  rcases hx with hx | ⟨bs, hx, hd⟩ | ⟨msg, hx, hd⟩
  · exact step_instr hin hx
  · rw [step_wire hin hx]
    exact (wire_row_receives (s := s.takeInput x rest) hd).symm
  · rw [step_message hin hx]
    exact (message_row_receives (s := s.takeInput x rest) hd).symm

/-- Settles O4: `step_runs_row` for the inputs, and the three ways a line is marked for the trace. -/
theorem stepRunsTheDecodedRow : Obligations.StepRunsTheDecodedRow := by
  constructor
  · intro s x rest i hin hx
    exact step_runs_row hin hx
  · intro t line i hd
    exact ⟨readLine_event hd, readLine_failTx hd, readLine_failSink hd⟩

theorem receiveBytes_cons_refused {b : Byte} {now : Timestamp} {s : State} {r : Refusal}
    (h : receiveByte b now s = .refused r) (rest : Bytes) : receiveBytes (b :: rest) now s = .refused r := by
  rw [receiveBytes, h]

/-- Settles O5: the two coded inputs are `step_wire` and `step_message`, whether their bytes are a row or not. -/
theorem stepReceivesEveryByteString : Obligations.StepReceivesEveryByteString := by
  constructor
  · intro s
    refine ⟨step_idle, fun x rest bs hin hx => ?wire, fun x rest msg hin hx => ?message⟩
    case wire => exact step_wire hin hx
    case message => exact step_message hin hx
  · intro s now b rest
    exact ⟨rfl, fun t h => receiveBytes_cons_next h rest, fun r h => receiveBytes_cons_refused h rest⟩

/-! ### Table words -/

/-- A reading of a table word is a row in its space (log 11). -/
theorem firstReading_row {t : CrcTable} {nbits w : Nat} {sps : List Space} {sp : Space} {bs : Bytes} {i : Instr}
    (h : firstReading t nbits w sps = some (sp, bs, i)) : decode t sp bs = .row i := by
  induction sps with
  | nil => cases h
  | cons sp' rest ih =>
    rw [firstReading] at h
    split at h
    case h_1 hd => cases h; exact hd
    case h_2 => exact ih h

theorem placedRequest_means {t : CrcTable} {sp : Space} {bs : Bytes} {i : Instr} (h : decode t sp bs = .row i) :
    (placedRequest sp bs i).Means t i := by
  cases sp
  case wire => exact .inr (.inl ⟨bs, rfl, h⟩)
  case fromPeer => exact .inr (.inr ⟨bs, rfl, h⟩)
  all_goals exact .inl rfl

theorem tableInput_request {s : State} {nbits w : Nat} {sp : Space} {bs : Bytes} {i : Instr}
    (h : readTableWord s.cfg.crcTable nbits w = some (sp, bs, i)) :
    (tableInput s nbits w).request = placedRequest sp bs i := by
  simp only [tableInput, h]

/-- Taking the input of a placed word leaves the state as it was before the word was placed. -/
theorem takeInput_withFetchWord (s : State) (nbits w : Nat) :
    (s.withFetchWord nbits w).takeInput (tableInput s nbits w) s.inputs = s := rfl

/-- Settles O6: the word's input stands for the row it was read as, and taking it restores the state. -/
theorem placedTableWordRuns : Obligations.PlacedTableWordRuns := by
  intro s nbits w sp bs i h
  have hmeans : (tableInput s nbits w).request.Means s.cfg.crcTable i := by
    rw [tableInput_request h]
    exact placedRequest_means (firstReading_row h)
  have hstep := step_runs_row (s := s.withFetchWord nbits w) rfl hmeans
  rwa [takeInput_withFetchWord] at hstep

end Sys2Proof.Machine
end

section
/-! The default table (40_checksum, R106, R108), and the framer's inferences (41_framer, R121, R123, R124): stuffed
sequences, where the delimiter stands, and how long a frame is. -/

namespace Sys2Proof.Machine

/-! ### The default table -/

theorem hi8_shiftLeft_8 (v : Half) : hi8 (v <<< 8) = lo8 v := by
  apply BitVec.eq_of_toNat_eq
  rw [hi8_toNat, half_shiftLeft_8]
  simp only [lo8, BitVec.toNat_ofNat, BitVec.toNat_setWidth]
  omega

/-- Where entry 0 is 0, a byte equal to the accumulator's high byte only shifts that byte out. -/
theorem crcStep_hi8 {t : CrcTable} (h0 : readTable t 0 = 0) (crc : Half) : crcStep t crc (hi8 crc) = crc <<< 8 := by
  rw [crcStep, BitVec.xor_self]
  exact (congrArg (· ^^^ crc <<< 8) h0).trans BitVec.zero_xor

/-- A message with its checksum behind it has residue 0 (R108): each checksum byte shifts itself out. -/
theorem crc16_residue {t : CrcTable} (h0 : readTable t 0 = 0) (m : Bytes) :
    crc16 t (m ++ [hi8 (crc16 t m), lo8 (crc16 t m)]) = 0 := by
  rw [List.append_cons, crc16_concat, crc16_concat, crcStep_hi8 h0, ← hi8_shiftLeft_8, crcStep_hi8 h0]
  apply BitVec.eq_of_toNat_eq
  rw [half_shiftLeft_8, half_shiftLeft_8]
  simp only [BitVec.ofNat_eq_ofNat, BitVec.toNat_ofNat]
  omega

/-- The 256 entries printed in R106 are those of its loop. -/
theorem readTable_default : ∀ i : Byte, readTable defaultCrcTable i = crcPolyEntry i := by
  decide +kernel

/-- Settles O9: the table is compared entry by entry, and the residue rests on entry 0 alone. -/
theorem defaultTableResidueIsZero : Obligations.DefaultTableResidueIsZero :=
  ⟨readTable_default, crc16_residue ((readTable_default 0).trans (by decide))⟩

/-! ### STUFFSEQ -/

theorem exec_stuffseq (m : Bytes) (s : State) :
    exec (.stuffseq m) s = .next (s.setResult (.bytes (stuffSeq m))) := rfl

/-- Stuffing keeps or doubles each byte (R121). -/
theorem stuffSeq_length (m : Bytes) : m.length ≤ (stuffSeq m).length ∧ (stuffSeq m).length ≤ 2 * m.length := by
  induction m with
  | nil => simp
  | cons b m ih =>
    have := stuff_length b
    rw [stuffSeq_cons, List.length_append, List.length_cons]
    omega

theorem stuffSeq_eq_flatMap (m : Bytes) :
    stuffSeq m = m.flatMap fun b => if b = 0x7E then [0x7D, 0x5E] else if b = 0x7D then [0x7D, 0x5D] else [b] := by
  rw [stuffSeq, funext stuff_eq_ite]

/-- Settles O11: the value is `stuffSeq_eq_flatMap`, its length `stuffSeq_length`. -/
theorem stuffSeqConcatenates : Obligations.StuffSeqConcatenates := by
  intro m s
  obtain ⟨hmin, hmax⟩ := stuffSeq_length m
  exact ⟨stuffSeq m, exec_stuffseq m s, stuffSeq_eq_flatMap m, hmin, hmax⟩

/-! ### Frames -/

/-- In a stuffed sequence every escape byte is followed by 5E or 5D (R120, R123). -/
theorem stuffSeq_esc_next (m : Bytes) : ∀ k : Nat, (stuffSeq m)[k]? = some 0x7D →
    (stuffSeq m)[k + 1]? = some 0x5E ∨ (stuffSeq m)[k + 1]? = some 0x5D := by
  induction m with
  | nil => simp
  | cons b m ih =>
    intro k hk
    rw [stuffSeq_cons] at hk ⊢
    rcases stuff_cases b with ⟨-, hb⟩ | ⟨-, hb⟩ | ⟨-, hesc, hb⟩ <;> rw [hb] at hk ⊢
    · match k, hk with
      | 0, _ => exact .inl rfl
      | 1, hk => simp at hk
      | k + 2, hk => exact ih k hk
    · match k, hk with
      | 0, _ => exact .inr rfl
      | 1, hk => simp at hk
      | k + 2, hk => exact ih k hk
    · match k, hk with
      | 0, hk => exact absurd (Option.some.inj hk) hesc
      | k + 1, hk => exact ih k hk

/-- Settles O13: between its delimiters a frame is a stuffed sequence. -/
theorem frameHasDelimitersOnlyAtItsEnds : Obligations.FrameHasDelimitersOnlyAtItsEnds := by
  intro t m
  refine ⟨frameRun t m, rfl, flag_not_mem_frameRun t m, ?_⟩
  rw [frameRun_eq]
  exact stuffSeq_esc_next _

/-- Settles O14: two delimiters, and the message with two checksum bytes stuffed (`stuffSeq_length`). -/
theorem frameLengthBounds : Obligations.FrameLengthBounds := by
  intro t m
  have hrun := stuffSeq_length (m ++ [hi8 (crc16 t m), lo8 (crc16 t m)])
  rw [List.length_append] at hrun
  simp only [encodeFrame, frameRun_eq, List.length_append, List.length_cons, List.length_nil] at hrun ⊢
  omega

end Sys2Proof.Machine
end

section
/-! The deframer (42_deframer, R141 to R151): UNSTUFF and DECODE, the operands outside a domain, and the statements of
that family. -/

namespace Sys2Proof.Machine

/-! ### Operands outside the stated domain -/

/-- Settles O16: each operation takes the branch of its free value. -/
theorem operandsOutsideTheDomainRun : Obligations.OperandsOutsideTheDomainRun := by
  intro s
  refine ⟨fun ch hch => ?rst, fun msg hmsg => ?parse, fun idx seq => rfl, fun sec usec => rfl⟩
  case rst =>
    have : ¬ legalChannel ch := by rw [legalChannel_iff]; omega
    rw [exec_mkrst, mkRst, if_neg this]
    rfl
  case parse =>
    rw [exec_parsepkt, parsePkt, if_neg (by omega)]
    rfl

/-! ### UNSTUFF -/

/-- Settles O17: the equations of the scan. -/
theorem unstuffScansLeftToRight : Obligations.UnstuffScansLeftToRight :=
  ⟨fun _ _ => rfl, unstuff_nil, unstuff_lone_esc, unstuff_esc, fun _ rest hb => unstuff_plain hb rest⟩

theorem unstuff_stuffSeq (m : Bytes) : unstuff (stuffSeq m) = some m := by
  simpa using unstuff_stuffSeq_append m []

/-- Settles O18: `unstuff_stuffSeq`, and a pair in front of it, whatever its second byte is. -/
theorem unstuffUndoesStuffing : Obligations.UnstuffUndoesStuffing :=
  ⟨unstuff_stuffSeq, fun x m => by rw [unstuff_esc, unstuff_stuffSeq]; rfl⟩

/-- The scan fails exactly on an escape byte left over at the end (R142). -/
theorem unstuff_eq_none_iff (run : Bytes) :
    unstuff run = none ↔ ∃ lead u : Bytes, run = lead ++ [0x7D] ∧ unstuff lead = some u := by
  constructor
  · exact unstuff_none run.length run le_rfl
  · rintro ⟨lead, u, rfl, hu⟩
    rw [unstuff_append lead.length lead u le_rfl hu, unstuff_lone_esc]
    rfl

/-! ### DECODE -/

theorem deframe_dangling {run : Bytes} (t : CrcTable) (h : unstuff run = none) :
    deframe t run = (.reject .danglingEscape, some .danglingEscape) := by
  simp only [deframe, h]

/-- A run of fewer than 7 un-escaped bytes (R145). -/
theorem deframe_short {run u : Bytes} (t : CrcTable) (h : unstuff run = some u) (hl : u.length < 7) :
    deframe t run = (.reject .frameTooShort, some (.frameTooShort u.length)) := by
  simp only [deframe, h, if_pos (show u.length < minUnstuffed from hl)]

theorem exec_decode (run : Bytes) (quiet : Bool) (s : State) :
    exec (.decode run quiet) s = .next
      ((s.warnUnlessQuiet quiet (deframe s.cfg.crcTable run).2).setResult (.decoded (deframe s.cfg.crcTable run).1)) := rfl

/-- Settles O19: CLOSE of a dangling run is CLOSE of a rejected one. -/
theorem danglingEscapeIsRejected : Obligations.DanglingEscapeIsRejected := by
  refine ⟨unstuff_eq_none_iff, fun t run h => by rw [deframe_dangling t h], fun s run ts h ht => ?_⟩
  obtain ⟨-, -, hnack, -⟩ := closeDispatchesTheRun s run ts
  exact hnack .danglingEscape .danglingEscape (deframe_dangling _ h) ht

/-- DECODE of a rejected run: its warning, unless quiet, and its reason (R144, R149). -/
theorem exec_decode_reject {run : Bytes} {s : State} {r : RejectReason} {w : Warning}
    (h : deframe s.cfg.crcTable run = (.reject r, some w)) (quiet : Bool) :
    exec (.decode run quiet) s = .next { s with
      result := .decoded (.reject r), outputs := s.outputs ++ (if quiet then [] else [.warn w]) } := by
  rw [exec_decode, h]
  cases quiet
  · rfl
  · simp [State.setResult]

/-- DECODE of a good run: the message and its checksum (R144, R147). -/
theorem exec_decode_ok {run msg : Bytes} {s : State} {crc : Half}
    (h : deframe s.cfg.crcTable run = (.ok msg crc, none)) (quiet : Bool) :
    exec (.decode run quiet) s = .next { s with result := .decoded (.ok msg crc) } := by
  rw [exec_decode, h, State.warnUnlessQuiet_none]
  rfl

/-- Settles O20: the cases are those of DECODE; a run of a message of 5 bytes or more is judged by its checksum. -/
theorem decodeChecksLengthThenCrc : Obligations.DecodeChecksLengthThenCrc := by
  intro run quiet s
  refine ⟨fun h => ?dangling, fun u h hl => ?short, fun msg a b h h5 => ⟨fun hc => ?good, fun hc => ?bad⟩⟩
  case dangling => exact exec_decode_reject (deframe_dangling _ h) quiet
  case short => exact exec_decode_reject (deframe_short _ h hl) quiet
  case good =>
    rw [hc]
    exact exec_decode_ok (by rw [deframe_of_unstuff _ h, if_neg (by omega), if_pos hc]) quiet
  case bad => exact exec_decode_reject (by rw [deframe_of_unstuff _ h, if_neg (by omega), if_neg hc]) quiet

/-- Settles O21: the run between the delimiters decodes as `deframe_frameRun` says. -/
theorem decodeOfEncodeIsTheMessage : Obligations.DecodeOfEncodeIsTheMessage := by
  intro s m quiet
  rw [encodeFrame_tail_dropLast]
  constructor
  · intro h5
    exact exec_decode_ok (by rw [deframe_frameRun, if_neg (by omega)]) quiet
  · intro h4
    have hd : deframe s.cfg.crcTable (frameRun s.cfg.crcTable m) =
        (.reject .frameTooShort, some (.frameTooShort (m.length + 2))) := by
      rw [deframe_frameRun, if_pos (by omega)]
    exact ⟨_, exec_decode_reject hd quiet, rfl⟩

end Sys2Proof.Machine
end

section
/-! The procedures of the link and the fatal path (43_link_state_machine R163 to R179, 44_capture_sink R213, 60_exceptions
R245): what each row does with a write that succeeds, and the statements about it. -/

namespace Sys2Proof.Machine

/-! ### SEQNEXT, CONNECT, PEERRESET -/

theorem seqNext_toNat (n : Half) : (seqNext n).toNat = if n.toNat = 65535 then 1 else n.toNat + 1 := by
  have hlt := n.isLt
  unfold seqNext
  by_cases h : n = seqMax
  · subst h; rfl
  · have hne : n.toNat ≠ 65535 := fun hn => h (BitVec.eq_of_toNat_eq hn)
    rw [if_neg h, if_neg hne, BitVec.toNat_add]
    simp only [BitVec.ofNat_eq_ofNat, BitVec.toNat_ofNat]
    omega

/-- Settles O22: the value is `seqNext_toNat`. -/
theorem seqNextSkipsZero : Obligations.SeqNextSkipsZero :=
  fun n _ => ⟨seqNext n, rfl, seqNext_toNat n⟩

/-- Settles O24: both are register writes, PEERRESET behind its signal. -/
theorem connectAndPeerResetWriteTheirFields : Obligations.ConnectAndPeerResetWriteTheirFields :=
  fun _ => ⟨rfl, rfl⟩

/-! ### Control frames -/

/-- A control frame whose write succeeds is one emission and nothing else (R125). -/
theorem sendMessage_sent {s : State} (ht : s.txDraws.headD .ok = .ok) (msg : Bytes) :
    sendMessage msg s = .go { s with
      txDraws := s.txDraws.tail
      outputs := s.outputs ++ [.emission .tx (encodeFrame s.cfg.crcTable msg) .ok] } := by
  rw [sendMessage_ok ht, attempt_tx ht]

/-- A control frame whose write fails: the attempt, then FatalIO (R62, R245). -/
theorem sendMessage_failed {s : State} (ht : s.txDraws.headD .ok = .fail) (msg : Bytes) :
    sendMessage msg s = .dead (fatalIO .tx { s with
      txDraws := s.txDraws.tail
      outputs := s.outputs ++ [.emission .tx (encodeFrame s.cfg.crcTable msg) .fail] }) := by
  rw [sendMessage_fail ht, attempt_tx ht]

theorem memWrite_sink_sent {s : State} (hs : s.sinkDraws.headD .ok = .ok) (bytes : Bytes) :
    memWrite .sink bytes s = .go { s with
      sinkDraws := s.sinkDraws.tail, outputs := s.outputs ++ [.emission .sink bytes .ok] } := by
  rw [memWrite_ok (c := .sink) hs, attempt_sink hs]

theorem memWrite_sink_failed {s : State} (hs : s.sinkDraws.headD .ok = .fail) (bytes : Bytes) :
    memWrite .sink bytes s = .dead (fatalIO .sink { s with
      sinkDraws := s.sinkDraws.tail, outputs := s.outputs ++ [.emission .sink bytes .fail] }) := by
  rw [memWrite_fail (c := .sink) hs, attempt_sink hs]

theorem exec_sendack (s : State) :
    exec .sendack s = (sendMessage (mkAck s.lastIndex s.lastSeqNr) s).outcome := rfl

theorem exec_sendnack (s : State) :
    exec .sendnack s = (sendMessage (mkNack s.lastIndex s.lastSeqNr) s).outcome := rfl

/-- Settles O29: the messages of the last good identifiers, sent. -/
theorem ackAndNackCarryTheLastIdentifiers : Obligations.AckAndNackCarryTheLastIdentifiers := by
  intro s i0 i1 q0 q1 hidx hseq ht
  constructor
  · rw [exec_sendack, sendMessage_sent ht, hidx, hseq, mkAck_join16]
    rfl
  · rw [exec_sendnack, sendMessage_sent ht, hidx, hseq, mkNack_join16]
    rfl

/-! ### MISMATCH -/

/-- Settles O27: behind the warning stands ACKCHECK, with the length or with 0, and the identifiers as they were. -/
theorem mismatchKeepsIdentifiers : Obligations.MismatchKeepsIdentifiers := by
  intro s seq n
  refine ⟨_, rfl, fun h => ?quiet, fun h h0 ht => ?sent⟩
  case quiet =>
    rw [exec_mismatch, mismatchPacket, ackCheck_quiet (s := s.warn _) h]
    rfl
  case sent =>
    rw [exec_mismatch, mismatchPacket, ackCheck_sent (s := s.warn _) h h0 ht]
    simp [State.warn, State.output]

/-! ### WRITE_RECORD -/

theorem writeRecord_eq {payload : Bytes} (h : payload.length ≤ 65535) (sec usec : Long) (s : State) :
    writeRecord sec usec payload s = memWrite .sink (recordOf sec usec payload) s :=
  if_neg (show ¬ maxPayload < payload.length from Nat.not_lt.mpr h)

theorem exec_writeRecord (sec usec : Long) (payload : Bytes) (s : State) :
    exec (.writeRecord sec usec payload) s = (writeRecord sec usec payload s).outcome := rfl

/-- Settles O30: within the length of `writeRecord_eq` one emission, beyond it a refusal. -/
theorem writeRecordEmitsOneRecord : Obligations.WriteRecordEmitsOneRecord := by
  intro s sec usec payload
  constructor
  · intro hl hs
    rw [exec_writeRecord, writeRecord_eq hl, memWrite_sink_sent hs]
    rfl
  · intro hl
    rw [exec_writeRecord, writeRecord_long hl]
    rfl

/-! ### FatalIO -/

theorem exec_fatalIO (c : Chan) (s : State) : exec (.fatalIO c) s = .next (fatalIO c s) := rfl

/-- Settles O32: without a session `fatalIO_quiet`, in one `fatalIO_session`. -/
theorem fatalIOLatches : Obligations.FatalIOLatches := by
  intro s
  refine ⟨?tx, fun hp => ?idle, fun hp => ?session⟩
  case tx =>
    rw [exec_fatalIO, fatalIO_quiet (.inl rfl)]
    rfl
  case idle =>
    rw [exec_fatalIO, fatalIO_quiet (.inr hp)]
    simp [State.latchFatal, State.signal, State.output, failSignal, hp]
  case session =>
    rw [exec_fatalIO, fatalIO_session hp, attempt_tx (s := s.signal .sinkWriteFail) rfl]
    simp [State.latchFatal, State.signal, State.output, mkStop]

end Sys2Proof.Machine
end

section
/-! The event rules by case (43_link_state_machine R160 to R184, 44_capture_sink R210, 70_reset R270), and the statements
about the events. -/

namespace Sys2Proof.Machine

/-! ### HDR -/

theorem hdrRule_first {s : State} (hh : s.hdrWritten = false) :
    hdrRule s = (memWrite .sink globalHeaderBytes s).andThen fun s1 => .go s1.markHeader := by
  rw [hdrRule, hh]
  rfl

theorem hdrRule_again {s : State} (hh : s.hdrWritten = true) : hdrRule s = .refuse .headerAlreadyWritten :=
  if_pos hh

theorem exec_hdr {s : State} (hf : s.fatal = false) : exec .hdr s = (hdrRule s).outcome := runEvent_live hf _

/-- The first HDR, its write failing (R210, R245). -/
theorem exec_hdr_failed {s : State} (hf : s.fatal = false) (hh : s.hdrWritten = false)
    (hs : s.sinkDraws.headD .ok = .fail) :
    exec .hdr s = exec (.fatalIO .sink) { s with
      sinkDraws := s.sinkDraws.tail, outputs := s.outputs ++ [.emission .sink globalHeaderBytes .fail] } := by
  rw [exec_hdr hf, hdrRule_first hh, memWrite_sink_failed hs]
  rfl

/-- The first HDR, its write succeeding (R210). -/
theorem exec_hdr_sent {s : State} (hf : s.fatal = false) (hh : s.hdrWritten = false)
    (hs : s.sinkDraws.headD .ok = .ok) :
    exec .hdr s = .next { s with
      hdrWritten := true, sinkDraws := s.sinkDraws.tail
      outputs := s.outputs ++ [.emission .sink globalHeaderBytes .ok] } := by
  rw [exec_hdr hf, hdrRule_first hh, memWrite_sink_sent hs]
  rfl

theorem exec_hdr_again {s : State} (hf : s.fatal = false) (hh : s.hdrWritten = true) :
    exec .hdr s = .refused .headerAlreadyWritten := by
  rw [exec_hdr hf, hdrRule_again hh]
  rfl

/-- Settles O36: the write that succeeds, the write that fails, and the second HDR. -/
theorem hdrWritesTheHeaderOnce : Obligations.HdrWritesTheHeaderOnce :=
  fun _ hf => ⟨exec_hdr_sent hf, exec_hdr_failed hf, exec_hdr_again hf⟩

/-! ### START -/

theorem exec_start {s : State} (hf : s.fatal = false) (ch : Byte) : exec (.start ch) s = (startRule ch s).outcome :=
  runEvent_live hf _

theorem startRule_accepted {s : State} {ch : Byte} (hh : s.hdrWritten = true) (hc : legalChannel ch)
    (hp : s.phase ≠ .connected) :
    startRule ch s = sendMessage [0x52, 0x53, 0x54, ch] (s.beginConnect ch) := by
  rw [startRule, if_neg (by simp [hh]), if_neg (not_not_intro hc), if_neg hp, mkRst_legal hc]

theorem exec_start_noHeader {s : State} (hf : s.fatal = false) (hh : s.hdrWritten = false) (ch : Byte) :
    exec (.start ch) s = .refused .startBeforeHeader := by
  rw [exec_start hf, startRule, if_pos hh]
  rfl

theorem exec_start_badChannel {s : State} {ch : Byte} (hf : s.fatal = false) (hh : s.hdrWritten = true)
    (hc : ch.toNat < 11 ∨ 26 < ch.toNat) : exec (.start ch) s = .refused .channelOutOfRange := by
  have : ¬ legalChannel ch := by rw [legalChannel_iff]; omega
  rw [exec_start hf, startRule, if_neg (by simp [hh]), if_pos this]
  rfl

theorem exec_start_connected {s : State} {ch : Byte} (hf : s.fatal = false) (hh : s.hdrWritten = true)
    (hc : legalChannel ch) (hp : s.phase = .connected) : exec (.start ch) s = .refused .startWhileConnected := by
  rw [exec_start hf, startRule, if_neg (by simp [hh]), if_neg (not_not_intro hc), if_pos hp]
  rfl

/-- Settles O37: the checks in the rule's order, then the RST. -/
theorem startBeginsTheConnect : Obligations.StartBeginsTheConnect := by
  intro s ch hf
  refine ⟨fun hh hmin hmax hp ht => ?sent, fun hh => exec_start_noHeader hf hh ch,
    fun hh hc => exec_start_badChannel hf hh hc, fun hh hmin hmax hp => exec_start_connected hf hh ⟨hmin, hmax⟩ hp⟩
  rw [exec_start hf, startRule_accepted hh ⟨hmin, hmax⟩ hp, sendMessage_sent (s := s.beginConnect ch) ht]
  rfl

/-! ### WINDOW, TIMEOUT, STOPREQ -/

theorem exec_window {s : State} (hf : s.fatal = false) : exec .window s = (windowRule s).outcome := runEvent_live hf _

theorem exec_timeout {s : State} (hf : s.fatal = false) : exec .timeout s = (timeoutRule s).outcome := runEvent_live hf _

theorem exec_stopreq {s : State} (hf : s.fatal = false) : exec .stopreq s = (stopreqRule s).outcome := runEvent_live hf _

theorem windowRule_connecting {s : State} (hp : s.phase = .connecting) (hc : legalChannel s.channel) :
    windowRule s = sendMessage [0x52, 0x53, 0x54, s.channel] s.leaveFrame := by
  rw [windowRule, hp, ← mkRst_legal hc]

theorem windowRule_elsewhere {s : State} (hp : s.phase ≠ .connecting) : windowRule s = .go s := by
  unfold windowRule
  split
  · exact absurd ‹_› hp
  · rfl
  · rfl

theorem timeoutRule_inside {s : State} (hp : s.phase = .connected) (hr : s.receiving = true) :
    timeoutRule s = sendMessage (mkNack s.lastIndex s.lastSeqNr) s.leaveFrame := by
  rw [timeoutRule, hp]
  exact if_pos hr

theorem timeoutRule_elsewhere {s : State} (h : s.phase = .connected → s.receiving = false) : timeoutRule s = .go s := by
  unfold timeoutRule
  split
  case h_1 hp => rw [h hp]; rfl
  all_goals rfl

theorem stopreqRule_session {s : State} (hp : s.phase ≠ .stopping) : stopreqRule s = sendMessage mkStop s.endSession := by
  unfold stopreqRule
  split
  · exact absurd ‹_› hp
  · rfl
  · rfl

theorem stopreqRule_stopping {s : State} (hp : s.phase = .stopping) : stopreqRule s = .go s := by
  rw [stopreqRule, hp]

theorem rxRule_stopping {s : State} (hp : s.phase = .stopping) (b : Byte) (now : Timestamp) : rxRule b now s = .go s := by
  rw [rxRule, hp]

theorem exec_window_elsewhere {s : State} (hf : s.fatal = false) (hp : s.phase ≠ .connecting) :
    exec .window s = .next s := by
  rw [exec_window hf, windowRule_elsewhere hp]
  rfl

theorem exec_timeout_elsewhere {s : State} (hf : s.fatal = false) (h : s.phase = .connected → s.receiving = false) :
    exec .timeout s = .next s := by
  rw [exec_timeout hf, timeoutRule_elsewhere h]
  rfl

theorem exec_stopreq_stopping {s : State} (hf : s.fatal = false) (hp : s.phase = .stopping) :
    exec .stopreq s = .next s := by
  rw [exec_stopreq hf, stopreqRule_stopping hp]
  rfl

/-- Settles O39: `windowRule_connecting` is the RST; in the other phases the rule changes nothing. -/
theorem windowResendsTheRst : Obligations.WindowResendsTheRst := by
  intro s hf
  refine ⟨fun hp hmin hmax ht => ?_, exec_window_elsewhere hf⟩
  rw [exec_window hf, windowRule_connecting hp ⟨hmin, hmax⟩, sendMessage_sent (s := s.leaveFrame) ht]
  rfl

/-- Settles O40: each of the four rules goes on with the state it was given. -/
theorem stoppingIgnoresInput : Obligations.StoppingIgnoresInput := by
  intro s b now hf hp
  refine ⟨?_, exec_timeout_elsewhere hf (by simp [hp]), exec_window_elsewhere hf (by simp [hp]),
    exec_stopreq_stopping hf hp⟩
  rw [exec_rx_live hf, rxRule_stopping hp]
  rfl

/-- Settles O41: `timeoutRule_inside` is the NACK; elsewhere the rule changes nothing. -/
theorem timeoutInsideAFrameSendsNack : Obligations.TimeoutInsideAFrameSendsNack := by
  intro s hf
  refine ⟨fun hp => exec_timeout_elsewhere hf (by simp [hp]), fun _ hr => exec_timeout_elsewhere hf fun _ => hr,
    fun hp hr ht => ?_⟩
  rw [exec_timeout hf, timeoutRule_inside hp hr, sendMessage_sent (s := s.leaveFrame) ht]
  rfl

/-- Settles O46: `stopreqRule_session` is the STOP; in the idle phase the rule changes nothing. -/
theorem stopreqSendsStopOnce : Obligations.StopreqSendsStopOnce := by
  intro s hf
  refine ⟨fun hp ht => ?_, exec_stopreq_stopping hf⟩
  rw [exec_stopreq hf, stopreqRule_session hp, sendMessage_sent (s := s.endSession) ht]
  rfl

/-! ### RESET -/

/-- Settles O34: the state is rebuilt, its parameters and its environment taken over. -/
theorem resetRestoresEveryField : Obligations.ResetRestoresEveryField := fun _ => rfl

/-- Settles O35: the reset state is idle, its first HDR writes, and with the header written START is accepted. -/
theorem resetStateIsIdle : Obligations.ResetStateIsIdle := by
  refine ⟨rfl, rfl, rfl, rfl, rfl, rfl, rfl, rfl, rfl, rfl, rfl, ⟨_, exec_hdr_sent rfl rfl rfl, rfl, rfl, ?again, ?start⟩,
    fun b now => ?rx, ?timeout, ?window, ?stopreq, exec_start_noHeader rfl rfl⟩
  case again => exact exec_hdr_again rfl rfl
  case start =>
    rw [exec_start rfl, startRule_accepted rfl (by decide) (by decide), sendMessage_sent rfl]
    exact ⟨_, rfl⟩
  case rx => exact (stoppingIgnoresInput State.reset b now rfl rfl).1
  case timeout => exact exec_timeout_elsewhere rfl fun _ => rfl
  case window => exact exec_window_elsewhere rfl (by decide)
  case stopreq => exact exec_stopreq_stopping rfl rfl

/-! ### RX inside a frame or a run -/

/-- The buffer is full where its capacity is limited and reached (R64). -/
theorem bufferFull_iff (s : State) : s.bufferFull = true ↔ ∃ k, s.cfg.bufMax = some k ∧ k < s.rxBuf.length + 1 := by
  unfold State.bufferFull
  cases s.cfg.bufMax with
  | none => simp
  | some k => simp

/-- A byte within the capacity, inside a frame or a run, is accumulated (R162, R167). -/
theorem exec_rx_accumulate {s : State} {b : Byte} (hf : s.fatal = false) (hp : s.phase ≠ .stopping)
    (hr : s.receiving = true) (hb : b ≠ 0x7E) (hk : ∀ k : Nat, s.cfg.bufMax = some k → s.rxBuf.length + 1 ≤ k)
    (now : Timestamp) : exec (.rx b now) s = .next { s with rxBuf := s.rxBuf ++ [b] } := by
  have hfull : s.bufferFull = false := by
    rw [Bool.eq_false_iff, Ne, bufferFull_iff]
    rintro ⟨k, hmax, hl⟩
    have := hk k hmax
    omega
  rw [exec_rx_live hf, rxRule_accumulate now hp hr hb, appendByte_go hfull]
  rfl

/-- A byte beyond the capacity is refused (R64, R250). -/
theorem exec_rx_overflow {s : State} {b : Byte} (hf : s.fatal = false) (hp : s.phase ≠ .stopping)
    (hr : s.receiving = true) (hb : b ≠ 0x7E) (hk : ∃ k : Nat, s.cfg.bufMax = some k ∧ k < s.rxBuf.length + 1)
    (now : Timestamp) : exec (.rx b now) s = .refused .bufferOverflow := by
  rw [exec_rx_live hf, rxRule_accumulate now hp hr hb, appendByte_full ((bufferFull_iff s).mpr hk)]
  rfl

/-- A delimiter behind nothing is an empty frame (R168). -/
theorem rxRule_empty {s : State} (now : Timestamp) (hp : s.phase = .connected) (hr : s.receiving = true)
    (he : s.rxBuf = []) : rxRule flagByte now s = .go { s.warn .emptyFrame with receiving := false } := by
  simp [rxRule, hp, hr, rxInside, he]

/-- Settles O43: `bufferFull_iff` decides between accumulation and refusal; `rxRule_empty` is the delimiter. -/
theorem byteInsideAFrame : Obligations.ByteInsideAFrame := by
  intro s b now hf hp hr
  have hlive : s.phase ≠ .stopping := by simp [hp]
  refine ⟨fun hb hk => exec_rx_accumulate hf hlive hr hb hk now, fun hb hk => exec_rx_overflow hf hlive hr hb hk now, ?_⟩
  rintro rfl he
  rw [exec_rx_live hf]
  exact congrArg Flow.outcome (rxRule_empty now hp hr he)

/-- Settles O44: the rule is `rxRule_close`, and CLOSE as a row is the same procedure. -/
theorem closingDelimiterClosesTheRun : Obligations.ClosingDelimiterClosesTheRun := by
  intro s now hf hp hr he
  rw [exec_rx_live hf]
  exact congrArg Flow.outcome (rxRule_close now hp hr he)

/-- Settles O45: outside a run a byte is discarded; the delimiter behind a run has the two outcomes of
`endConnectRun_cases`. -/
theorem connectPhaseScansForReady : Obligations.ConnectPhaseScansForReady := by
  intro s b now hf hp
  have hlive : s.phase ≠ .stopping := by simp [hp]
  have hend (hr : s.receiving = true) : exec (.rx flagByte now) s = .next (endConnectRun s) := by
    rw [exec_rx_live hf, rxRule_connectEnd now hp hr]
    rfl
  refine ⟨fun hb hr => ?outside, fun hb hr hk => exec_rx_accumulate hf hlive hr hb hk now, ?opens, ?ready, ?other⟩
  case outside =>
    have hrule : rxRule b now s = .go s := by simp [rxRule, hp, rxConnecting, hr, show b ≠ flagByte from hb]
    rw [exec_rx_live hf, hrule]
    rfl
  case opens =>
    rintro rfl hr
    rw [exec_rx_live hf]
    exact congrArg Flow.outcome (rxRule_open now hlive hr)
  case ready =>
    rintro rfl hr ⟨crc, hready⟩
    rcases endConnectRun_cases s with ⟨-, he⟩ | ⟨hnot, -⟩
    · exact (hend hr).trans (by rw [he]; rfl)
    · exact absurd hready (hnot crc)
  case other =>
    rintro rfl hr hnot
    rcases endConnectRun_cases s with ⟨⟨crc, hready⟩, -⟩ | ⟨-, he⟩
    · exact absurd hready (hnot crc)
    · exact (hend hr).trans (by rw [he])

/-! ### Refusals -/

/-- Settles O38: `fatal` is checked before every rule; each other refusal is the lemma of its row. -/
theorem contractViolationsAreRefused : Obligations.ContractViolationsAreRefused := by
  intro s
  refine ⟨fun hf i hi hreset => ?fatal, fun hf ch => ⟨?noHeader, ?badChannel, ?connected⟩, exec_hdr_again,
    fun k b now hf hp hr hk hl hb => exec_rx_overflow hf hp hr hb ⟨k, hk, hl⟩ now,
    fun sec usec payload hl => ⟨?write, ?record, ?packet⟩⟩
  case fatal =>
    cases i <;> simp only [Instr.kind, reduceCtorEq] at hi
    case reset => exact absurd rfl hreset
    all_goals exact runEvent_fatal hf _
  case noHeader => exact fun hh => exec_start_noHeader hf hh ch
  case badChannel => exact exec_start_badChannel hf
  case connected => exact fun hh hmin hmax => exec_start_connected hf hh ⟨hmin, hmax⟩
  case write => exact (writeRecordEmitsOneRecord s sec usec payload).2 hl
  case record => exact if_pos hl
  case packet =>
    intro idx seq n
    rw [exec_matchPacket, matchPacket, writeRecord_long hl]
    rfl

end Sys2Proof.Machine
end

section
/-! The rows that are byte patterns (30_encoding R70 to R91): bytes received as RX events, and the block's own messages and
headers emitted; the statements about them. -/

namespace Sys2Proof.Machine

/-! ### Wire symbols -/

/-- Settles O47: FLAG is one RX event, and the bytes of the other symbols are accumulated raw inside a frame or a run. -/
theorem wireSymbolsAreReceived : Obligations.WireSymbolsAreReceived := by
  intro s x hf
  refine ⟨rfl, fun hp hr => ?opens, fun hp hr hm => ?inside⟩
  case opens => exact (byteOutsideAFrame s flagByte s.clock hf hp hr).2 rfl
  case inside =>
    have hraw := receiveBytes_inside s.clock hf hp hr hm
    refine ⟨?esc, hraw [0x7D, 0x5E] (by decide), hraw [0x7D, 0x5D] (by decide), fun hx => hraw [0x7D, x] ?any⟩
    case esc => exact (wire_row_receives rfl).trans (hraw [escByte] (by decide))
    case any => simpa [flagByte] using hx.symm

/-! ### Emitted rows -/

theorem exec_globalHeader {s : State} (hf : s.fatal = false) :
    exec .globalHeader s = (memWrite .sink globalHeaderBytes s).outcome := runEvent_live hf _

theorem exec_recordHeader {s : State} (hf : s.fatal = false) {payload : Bytes} (hl : payload.length ≤ 65535)
    (sec usec : Long) :
    exec (.recordHeader sec usec payload) s = (memWrite .sink (recordBytes sec usec payload) s).outcome := by
  have hrule : emitRecord sec usec payload s = memWrite .sink (recordBytes sec usec payload) s :=
    if_neg (show ¬ maxPayload < payload.length from Nat.not_lt.mpr hl)
  rw [← hrule]
  exact runEvent_live hf _

/-- A row that sends a message, its write succeeding (R79, R125). -/
theorem runEvent_sendMessage_sent {s : State} (hf : s.fatal = false) (ht : s.txDraws.headD .ok = .ok) (m : Bytes) :
    runEvent s (sendMessage m) = .next { s with
      txDraws := s.txDraws.tail
      outputs := s.outputs ++ [.emission .tx (encodeFrame s.cfg.crcTable m) .ok] } := by
  rw [runEvent_live hf, sendMessage_sent ht]
  rfl

/-- Settles O48: messages through `runEvent_sendMessage_sent`, headers as one write on the sink. -/
theorem outboundRowsAreEmitted : Obligations.OutboundRowsAreEmitted := by
  intro s idx seq ch sec usec payload hf
  refine ⟨fun ht => ?messages, fun hs => ⟨?header, fun hl => ?record⟩⟩
  case messages =>
    have hsent := runEvent_sendMessage_sent hf ht
    refine ⟨fun hmin hmax => ?rst, hsent (mkAck idx seq), hsent (mkNack idx seq), hsent mkStop⟩
    rw [← mkRst_legal (ch := ch) ⟨hmin, hmax⟩]
    exact hsent (mkRst ch)
  case header =>
    rw [exec_globalHeader hf, memWrite_sink_sent hs]
    rfl
  case record =>
    rw [exec_recordHeader hf hl, memWrite_sink_sent hs]
    rfl

/-! ### Messages of the peer -/

theorem exec_frame (m : Bytes) (s : State) : exec (.frame m) s = receiveFrame m s := rfl

theorem exec_ready (s : State) : exec .ready s = exec (.frame mkReady) s := rfl

theorem exec_packet (idx seq : Half) (payload : Bytes) (s : State) :
    exec (.packet idx seq payload) s = exec (.frame (packetBytes idx seq payload)) s := rfl

theorem deframe_frameRun_long (t : CrcTable) {m : Bytes} (h : 5 ≤ m.length) :
    deframe t (frameRun t m) = (.ok m (crc16 t m), none) := by
  rw [deframe_frameRun, if_neg (by omega)]

theorem deframe_frameRun_short (t : CrcTable) {m : Bytes} (h : m.length < 5) :
    deframe t (frameRun t m) = (.reject .frameTooShort, some (.frameTooShort (m.length + 2))) := by
  rw [deframe_frameRun, if_pos h]

/-- Settles O49: the frame closes a run that decodes to its message (`receiveFrame_connected`, `deframe_frameRun`), and
CLOSE does with the run what R170 says. -/
theorem frameDeliversItsMessage : Obligations.FrameDeliversItsMessage := by
  intro s m hf hp hr hm
  rw [exec_frame, receiveFrame_connected m hf hp hr hm]
  obtain ⟨hready, -, hnack, hpacket⟩ := closeDispatchesTheRun { s with rxBuf := [] } (frameRun s.cfg.crcTable m) s.clock
  refine ⟨fun i0 i1 q0 q1 payload hmsg hne => ?long, fun hl ht => ?short⟩
  case long =>
    have h5 : 5 ≤ m.length := by
      have := List.length_pos_iff.mpr hne
      rw [hmsg]
      simp only [List.length_cons]
      omega
    have hd := deframe_frameRun_long s.cfg.crcTable h5
    by_cases hm : m = [0x52, 0x45, 0x41, 0x44, 0x59]
    · rw [if_pos hm]
      subst hm
      exact hready _ none hd
    · rw [if_neg hm]
      subst hmsg
      exact hpacket i0 i1 q0 q1 payload _ none hd hm
  case short => exact hnack _ _ (deframe_frameRun_short s.cfg.crcTable hl) ht

/-- Settles O50: the frame of the packet reaches MATCH, which stays below the threshold. -/
theorem packetInOrderIsCaptured : Obligations.PacketInOrderIsCaptured := by
  intro s idx payload hf hp hr hm h1 hl hready hs hcount
  have hne : payload ≠ [] := List.length_pos_iff.mp h1
  obtain ⟨i0, i1, rfl⟩ := exists_join16 idx
  obtain ⟨q0, q1, hseq⟩ := exists_join16 s.expectedSeqNr
  have hmatch : exec (.packet (join16 i0 i1) s.expectedSeqNr payload) s =
      exec (.matchPacket (join16 i0 i1) s.expectedSeqNr payload (4 + payload.length) s.clock) { s with rxBuf := [] } := by
    have hbytes : packetBytes (join16 i0 i1) s.expectedSeqNr payload = i0 :: i1 :: q0 :: q1 :: payload := by
      rw [hseq, packetBytes_join16]
    rw [exec_packet, (frameDeliversItsMessage s _ hf hp hr hm).1 i0 i1 q0 q1 payload hbytes hne, if_neg hready, if_pos hseq.symm, hseq]
  obtain ⟨hquiet, -⟩ := matchCapturesThenAcknowledges { s with rxBuf := [] } (join16 i0 i1) s.expectedSeqNr payload
    (4 + payload.length) s.clock hl hs
  rw [hmatch, hquiet (.inl hcount), recordOf_eq hne]

/-- Settles O51: in the connect phase the run ends in READY (`endConnectRun_cases`), in the receive loop it is O49's. -/
theorem readyConnectsOrResets : Obligations.ReadyConnectsOrResets := by
  intro s hf hr hm
  refine ⟨fun hp => ?connects, fun hp => ?resets⟩
  case connects =>
    rw [exec_ready, exec_frame, receiveFrame_connecting mkReady hf hp hr hm]
    have hd := deframe_frameRun_long s.cfg.crcTable (m := mkReady) (by decide)
    rcases endConnectRun_cases { s with receiving := true, rxBuf := frameRun s.cfg.crcTable mkReady } with
      ⟨-, he⟩ | ⟨hnot, -⟩
    · rw [he]
      simp [connect, hr, seqFirst, seqNone]
    · exact absurd (by rw [hd]) (hnot (crc16 s.cfg.crcTable mkReady))
  case resets =>
    rw [exec_ready, (frameDeliversItsMessage s mkReady hf hp hr hm).1 0x52 0x45 0x41 0x44 [0x59] rfl (by simp),
      if_pos (show mkReady = [0x52, 0x45, 0x41, 0x44, 0x59] from rfl)]

end Sys2Proof.Machine
end

section
/-! Failed writes (R62, R245): for each row that writes, FatalIO runs at the failed emission and nothing after it; and the
statement that collects them. -/

namespace Sys2Proof.Machine

section
variable {s : State}

/-! ### Control frames that fail -/

section
variable (ht : s.txDraws.headD .ok = .fail)
include ht

theorem exec_start_failed {ch : Byte} (hf : s.fatal = false) (hh : s.hdrWritten = true) (hc : legalChannel ch)
    (hp : s.phase ≠ .connected) :
    exec (.start ch) s = exec (.fatalIO .tx) { s with
      channel := ch, receiving := false, rxBuf := [], phase := .connecting, txDraws := s.txDraws.tail
      outputs := s.outputs ++ [.emission .tx (encodeFrame s.cfg.crcTable [0x52, 0x53, 0x54, ch]) .fail] } := by
  rw [exec_start hf, startRule_accepted hh hc hp, sendMessage_failed (s := s.beginConnect ch) ht]
  rfl

theorem exec_window_failed (hf : s.fatal = false) (hp : s.phase = .connecting) (hc : legalChannel s.channel) :
    exec .window s = exec (.fatalIO .tx) { s with
      receiving := false, rxBuf := [], txDraws := s.txDraws.tail
      outputs := s.outputs ++ [.emission .tx (encodeFrame s.cfg.crcTable [0x52, 0x53, 0x54, s.channel]) .fail] } := by
  rw [exec_window hf, windowRule_connecting hp hc, sendMessage_failed (s := s.leaveFrame) ht]
  rfl

theorem exec_timeout_failed (hf : s.fatal = false) (hp : s.phase = .connected) (hr : s.receiving = true) :
    exec .timeout s = exec (.fatalIO .tx) { s with
      receiving := false, rxBuf := [], txDraws := s.txDraws.tail
      outputs := s.outputs ++
        [.emission .tx (encodeFrame s.cfg.crcTable (mkNack s.lastIndex s.lastSeqNr)) .fail] } := by
  rw [exec_timeout hf, timeoutRule_inside hp hr, sendMessage_failed (s := s.leaveFrame) ht]
  rfl

theorem exec_stopreq_failed (hf : s.fatal = false) (hp : s.phase ≠ .stopping) :
    exec .stopreq s = exec (.fatalIO .tx) { s with
      receiving := false, rxBuf := [], phase := .stopping, txDraws := s.txDraws.tail
      outputs := s.outputs ++ [.emission .tx (encodeFrame s.cfg.crcTable mkStop) .fail] } := by
  rw [exec_stopreq hf, stopreqRule_session hp, sendMessage_failed (s := s.endSession) ht]
  rfl

/-- SENDACK, SENDNACK and the emitted messages are a control frame and nothing else. -/
theorem sendMessage_outcome_failed (m : Bytes) :
    (sendMessage m s).outcome = exec (.fatalIO .tx) { s with
      txDraws := s.txDraws.tail
      outputs := s.outputs ++ [.emission .tx (encodeFrame s.cfg.crcTable m) .fail] } := by
  rw [sendMessage_failed ht]
  rfl

theorem exec_close_failed {run : Bytes} {r : RejectReason} {w : Warning}
    (hd : deframe s.cfg.crcTable run = (.reject r, some w)) (ts : Timestamp) :
    exec (.close run ts) s = exec (.fatalIO .tx) { s with
      txDraws := s.txDraws.tail
      outputs := s.outputs ++ [.warn w,
        .emission .tx (encodeFrame s.cfg.crcTable (mkNack s.lastIndex s.lastSeqNr)) .fail] } := by
  rw [exec_close, closeRun_reject ts hd, sendNack, sendMessage_failed (s := s.warn w) ht]
  simp [State.warn, State.output, exec_fatalIO]

/-- The ACK of ACKCHECK fails: the count stands, and is not cleared (R176). -/
theorem ackCheck_failed {n : Nat} (h : 250 ≤ s.unackedByteCount + n) (h0 : s.lastSeqNr ≠ 0) :
    ackCheck n s = .dead (fatalIO .tx { s with
      unackedByteCount := s.unackedByteCount + n, txDraws := s.txDraws.tail
      outputs := s.outputs ++
        [.emission .tx (encodeFrame s.cfg.crcTable (mkAck s.lastIndex s.lastSeqNr)) .fail] }) := by
  rw [ackCheck_due h h0, sendAck, sendMessage_failed (s := s.countBytes n) ht]
  rfl

theorem exec_ackcheck_failed {n : Nat} (h : 250 ≤ s.unackedByteCount + n) (h0 : s.lastSeqNr ≠ 0) :
    exec (.ackcheck n) s = exec (.fatalIO .tx) { s with
      unackedByteCount := s.unackedByteCount + n, txDraws := s.txDraws.tail
      outputs := s.outputs ++
        [.emission .tx (encodeFrame s.cfg.crcTable (mkAck s.lastIndex s.lastSeqNr)) .fail] } := by
  rw [exec_ackcheck, ackCheck_failed ht h h0]
  rfl

theorem exec_mismatch_failed {seq : Half} {n added : Nat} (ha : added = if s.cfg.mismatchAccumulates then n else 0)
    (h : 250 ≤ s.unackedByteCount + added) (h0 : s.lastSeqNr ≠ 0) :
    exec (.mismatch seq n) s = exec (.fatalIO .tx) { s with
      unackedByteCount := s.unackedByteCount + added, txDraws := s.txDraws.tail
      outputs := s.outputs ++ [.warn (.seqMismatch seq s.expectedSeqNr),
        .emission .tx (encodeFrame s.cfg.crcTable (mkAck s.lastIndex s.lastSeqNr)) .fail] } := by
  subst ha
  rw [exec_mismatch, mismatchPacket, ackCheck_failed (s := s.warn _) ht h h0]
  simp [State.warn, State.output, exec_fatalIO]

/-- MATCH whose record is written and whose ACK fails (R174). -/
theorem exec_matchPacket_ackFailed {idx seq : Half} {payload : Bytes} {n : Nat} (hl : payload.length ≤ 65535)
    (hs : s.sinkDraws.headD .ok = .ok) (h : 250 ≤ s.unackedByteCount + n) (h0 : seq ≠ 0) (ts : Timestamp) :
    exec (.matchPacket idx seq payload n ts) s = exec (.fatalIO .tx) { s with
      expectedSeqNr := seqNext s.expectedSeqNr, lastIndex := idx, lastSeqNr := seq
      unackedByteCount := s.unackedByteCount + n, sinkDraws := s.sinkDraws.tail, txDraws := s.txDraws.tail
      outputs := s.outputs ++ [.emission .sink (recordOf ts.sec ts.usec payload) .ok,
        .emission .tx (encodeFrame s.cfg.crcTable (mkAck idx seq)) .fail] } := by
  rw [exec_matchPacket, matchPacket_recorded hl hs, ackCheck_failed ?draw ?count ?number]
  case draw => exact ht
  case count => exact h
  case number => exact h0
  simp [State.acceptPacket, exec_fatalIO]

end

/-! ### Records and headers that fail -/

section
variable (hs : s.sinkDraws.headD .ok = .fail)
include hs

theorem exec_globalHeader_failed (hf : s.fatal = false) :
    exec .globalHeader s = exec (.fatalIO .sink) { s with
      sinkDraws := s.sinkDraws.tail, outputs := s.outputs ++ [.emission .sink globalHeaderBytes .fail] } := by
  rw [exec_globalHeader hf, memWrite_sink_failed hs]
  rfl

theorem exec_recordHeader_failed (hf : s.fatal = false) {payload : Bytes} (hl : payload.length ≤ 65535)
    (sec usec : Long) :
    exec (.recordHeader sec usec payload) s = exec (.fatalIO .sink) { s with
      sinkDraws := s.sinkDraws.tail
      outputs := s.outputs ++ [.emission .sink (recordBytes sec usec payload) .fail] } := by
  rw [exec_recordHeader hf hl, memWrite_sink_failed hs]
  rfl

theorem writeRecord_failed {payload : Bytes} (hl : payload.length ≤ 65535) (sec usec : Long) :
    writeRecord sec usec payload s = .dead (fatalIO .sink { s with
      sinkDraws := s.sinkDraws.tail
      outputs := s.outputs ++ [.emission .sink (recordOf sec usec payload) .fail] }) := by
  rw [writeRecord_eq hl, memWrite_sink_failed hs]

theorem exec_writeRecord_failed {payload : Bytes} (hl : payload.length ≤ 65535) (sec usec : Long) :
    exec (.writeRecord sec usec payload) s = exec (.fatalIO .sink) { s with
      sinkDraws := s.sinkDraws.tail
      outputs := s.outputs ++ [.emission .sink (recordOf sec usec payload) .fail] } := by
  rw [exec_writeRecord, writeRecord_failed hs hl]
  rfl

/-- MATCH whose record fails: the registers stand, the ACK bookkeeping is not reached (R174). -/
theorem exec_matchPacket_recordFailed {payload : Bytes} (hl : payload.length ≤ 65535) (idx seq : Half) (n : Nat)
    (ts : Timestamp) :
    exec (.matchPacket idx seq payload n ts) s = exec (.fatalIO .sink) { s with
      expectedSeqNr := seqNext s.expectedSeqNr, lastIndex := idx, lastSeqNr := seq, sinkDraws := s.sinkDraws.tail
      outputs := s.outputs ++ [.emission .sink (recordOf ts.sec ts.usec payload) .fail] } := by
  rw [exec_matchPacket, matchPacket, writeRecord_failed (s := s.acceptPacket idx seq) hs hl]
  rfl

end

end

/-! ### All of them -/

/-- Settles O33: each row's failed write is its lemma above; the four end states written out are FatalIO's (O32). -/
theorem failedWriteAbandonsTheRule : Obligations.FailedWriteAbandonsTheRule := by
  intro s
  refine ⟨fun hf hh hs hp => ?hdr, fun ch hf hh hc hp ht => ?start, fun n h h0 ht => ?ackcheck,
    fun idx seq payload n ts hp hl hs => ?record, fun ht => ?tx, fun hs => ?sink⟩
  case hdr =>
    obtain ⟨-, hidle, -⟩ := fatalIOLatches { s with
      sinkDraws := s.sinkDraws.tail, outputs := s.outputs ++ [.emission .sink globalHeaderBytes .fail] }
    rw [exec_hdr_failed hf hh hs, hidle hp]
    simp
  case start =>
    rw [exec_start_failed ht hf hh hc hp, (fatalIOLatches _).1]
    simp
  case ackcheck =>
    rw [exec_ackcheck_failed ht h h0, (fatalIOLatches _).1]
    simp
  case record =>
    obtain ⟨-, -, hsession⟩ := fatalIOLatches { s with
      expectedSeqNr := seqNext s.expectedSeqNr, lastIndex := idx, lastSeqNr := seq, sinkDraws := s.sinkDraws.tail
      outputs := s.outputs ++ [.emission .sink (recordOf ts.sec ts.usec payload) .fail] }
    rw [exec_matchPacket_recordFailed hs hl, hsession (by simp [hp])]
    simp
  case tx =>
    refine ⟨fun ch => exec_start_failed ht, exec_window_failed ht, exec_timeout_failed ht, exec_stopreq_failed ht,
      sendMessage_outcome_failed ht _, sendMessage_outcome_failed ht _, fun run ts r w hd => exec_close_failed ht hd ts,
      fun idx seq payload n ts hl hs h h0 => exec_matchPacket_ackFailed ht hl hs h h0 ts,
      fun seq n added => exec_mismatch_failed ht, fun n => exec_ackcheck_failed ht, fun i m hf hi => ?messages⟩
    have hfailed := (runEvent_live hf (sendMessage m)).trans (sendMessage_outcome_failed ht m)
    rcases hi with ⟨ch, rfl, rfl⟩ | ⟨idx, seq, rfl, rfl⟩ | ⟨idx, seq, rfl, rfl⟩ | ⟨rfl, rfl⟩ <;> exact hfailed
  case sink =>
    refine ⟨fun i bytes hf hi => ?headers, fun sec usec payload hl => exec_writeRecord_failed hs hl sec usec,
      fun idx seq payload n ts hl => exec_matchPacket_recordFailed hs hl idx seq n ts⟩
    rcases hi with ⟨rfl, hh, rfl⟩ | ⟨rfl, rfl⟩ | ⟨sec, usec, payload, rfl, hl, rfl⟩
    · exact exec_hdr_failed hf hh hs
    · exact exec_globalHeader_failed hs hf
    · exact exec_recordHeader_failed hs hf hl sec usec

end Sys2Proof.Machine
end

section
/-! What no rule writes (R34, R38): the constants and the table, and the inputs still to come; and the statement about the
constants. -/

namespace Sys2Proof.Machine

/-- The state holds these parameters and these inputs still to come. -/
structure Surrounded (c : Config) (l : List Input) (s : State) : Prop where
  cfg : s.cfg = c
  inputs : s.inputs = l

section
variable {c : Config} {l : List Input} {s : State}

/-! ### Procedures -/

theorem Surrounded.attempt (h : Surrounded c l s) (ch : Chan) (bytes : Bytes) : Surrounded c l (s.attempt ch bytes) :=
  ⟨by simpa using h.cfg, by simpa using h.inputs⟩

theorem Surrounded.fatalIO (h : Surrounded c l s) (ch : Chan) : Surrounded c l (fatalIO ch s) :=
  ⟨(fatalIO_cfg ch s).trans h.cfg, (fatalIO_inputs ch s).trans h.inputs⟩

theorem Surrounded.memWrite (h : Surrounded c l s) (ch : Chan) (bytes : Bytes) :
    (memWrite ch bytes s).Ends (Surrounded c l) :=
  memWrite_ends (h.attempt ch bytes) ((h.attempt ch bytes).fatalIO ch)

theorem Surrounded.sendMessage (h : Surrounded c l s) (m : Bytes) : (sendMessage m s).Ends (Surrounded c l) :=
  h.memWrite .tx _

theorem Surrounded.ackCheck (h : Surrounded c l s) (n : Nat) : (ackCheck n s).Ends (Surrounded c l) := by
  have hcount : Surrounded c l (s.countBytes n) := ⟨h.cfg, h.inputs⟩
  have hsent := hcount.attempt .tx (encodeFrame s.cfg.crcTable (mkAck s.lastIndex s.lastSeqNr))
  exact ackCheck_ends hcount ⟨hsent.cfg, hsent.inputs⟩ (hsent.fatalIO .tx)

theorem Surrounded.writeRecord (h : Surrounded c l s) (sec usec : Long) (payload : Bytes) :
    (writeRecord sec usec payload s).Ends (Surrounded c l) := by
  unfold Machine.writeRecord
  split
  · exact Flow.ends_refuse _ _
  · exact h.memWrite .sink _

theorem Surrounded.matchPacket (h : Surrounded c l s) (idx seq : Half) (payload : Bytes) (n : Nat) (ts : Timestamp) :
    (matchPacket idx seq payload n ts s).Ends (Surrounded c l) := by
  have hwrite : (Machine.writeRecord ts.sec ts.usec payload (s.acceptPacket idx seq)).Ends (Surrounded c l) :=
    Surrounded.writeRecord (s := s.acceptPacket idx seq) ⟨h.cfg, h.inputs⟩ ts.sec ts.usec payload
  exact Flow.ends_andThen (fun s1 h1 => (hwrite s1 (.inl h1)).ackCheck n) fun s1 h1 => hwrite s1 (.inr h1)

theorem Surrounded.mismatchPacket (h : Surrounded c l s) (seq : Half) (n : Nat) :
    (mismatchPacket seq n s).Ends (Surrounded c l) :=
  Surrounded.ackCheck (s := s.warn _) ⟨h.cfg, h.inputs⟩ _

theorem Surrounded.closeRun (h : Surrounded c l s) (run : Bytes) (ts : Timestamp) :
    (closeRun run ts s).Ends (Surrounded c l) := by
  rcases closeRun_cases run ts s with
    ⟨r, w, -, hc⟩ | ⟨crc, -, hc⟩ | ⟨_, _, _, _, p, crc, -, -, -, ⟨-, hc⟩ | ⟨-, hc⟩⟩ <;> rw [hc]
  · exact Surrounded.sendMessage (s := s.warn w) ⟨h.cfg, h.inputs⟩ _
  · exact Flow.ends_go ⟨h.cfg, h.inputs⟩
  · exact h.matchPacket _ _ p _ ts
  · exact h.mismatchPacket _ _

/-! ### Events -/

theorem Surrounded.endConnectRun (h : Surrounded c l s) : Surrounded c l (endConnectRun s) := by
  rcases endConnectRun_cases s with ⟨-, he⟩ | ⟨-, he⟩ <;> rw [he] <;> exact ⟨h.cfg, h.inputs⟩

theorem Surrounded.rxRule (h : Surrounded c l s) (b : Byte) (now : Timestamp) :
    (rxRule b now s).Ends (Surrounded c l) := by
  rcases rxRule_cases b now s with
    hc | ⟨-, -, -, hc⟩ | ⟨-, -, -, hc⟩ | ⟨-, -, -, hc⟩ | ⟨-, -, -, hc⟩ | ⟨-, -, -, -, hc⟩ | ⟨-, -, -, -, hc⟩ <;> rw [hc]
  · exact Flow.ends_go h
  · exact appendByte_ends ⟨h.cfg, h.inputs⟩
  · exact Flow.ends_go ⟨h.cfg, h.inputs⟩
  · exact Flow.ends_go h.endConnectRun
  · exact Flow.ends_go ⟨h.cfg, h.inputs⟩
  · exact Flow.ends_go ⟨h.cfg, h.inputs⟩
  · exact Surrounded.closeRun (s := s.leaveFrame) ⟨h.cfg, h.inputs⟩ s.rxBuf now

theorem Surrounded.hdrRule (h : Surrounded c l s) : (hdrRule s).Ends (Surrounded c l) := by
  have hsent := h.attempt .sink globalHeaderBytes
  exact hdrRule_ends (fun _ _ => ⟨hsent.cfg, hsent.inputs⟩) fun _ _ => hsent.fatalIO .sink

theorem surrounded_event {i : Instr} {t : State} (hi : i.kind = .event) (h : Surrounded c l s)
    (he : exec i s = .next t) : Surrounded c l t := by
  have hframe : Surrounded c l s.leaveFrame := ⟨h.cfg, h.inputs⟩
  apply event_ends hi he
  case hreset => exact fun _ => ⟨h.cfg, h.inputs⟩
  case hhdr => exact fun _ _ => h.hdrRule
  case hstart =>
    exact fun ch _ _ => startRule_ends fun _ _ _ =>
      Surrounded.sendMessage (s := s.beginConnect ch) ⟨h.cfg, h.inputs⟩ _
  case hwindow => exact fun _ _ => windowRule_ends h fun _ => hframe.sendMessage _
  case hrx => exact fun b now _ _ => h.rxRule b now
  case htimeout => exact fun _ _ => timeoutRule_ends h fun _ _ => hframe.sendMessage _
  case hstopreq =>
    exact fun _ _ => stopreqRule_ends h fun _ => Surrounded.sendMessage (s := s.endSession) ⟨h.cfg, h.inputs⟩ _

/-! ### The other rows -/

theorem Surrounded.warnUnlessQuiet (h : Surrounded c l s) (q : Bool) (w : Option Warning) :
    Surrounded c l (s.warnUnlessQuiet q w) := by
  cases q <;> cases w <;> exact ⟨h.cfg, h.inputs⟩

theorem surrounded_pureOp {i : Instr} {t : State} (hi : i.kind = .pureOp) (h : Surrounded c l s)
    (he : exec i s = .next t) : Surrounded c l t := by
  cases i <;> simp only [Instr.kind, reduceCtorEq] at hi
  case decode run quiet =>
    cases he
    have hw := h.warnUnlessQuiet quiet (deframe s.cfg.crcTable run).2
    exact ⟨hw.cfg, hw.inputs⟩
  case record sec usec payload =>
    simp only [exec, execRecord] at he
    split at he
    · cases he
    · cases he; exact ⟨h.cfg, h.inputs⟩
  all_goals cases he; exact ⟨h.cfg, h.inputs⟩

theorem Flow.Ends.of_outcome {f : Flow} {P : State → Prop} {t : State} (h : f.Ends P) (ht : f.outcome = .next t) : P t :=
  h t (Flow.outcome_next ht)

theorem surrounded_procedure {i : Instr} {t : State} (hi : i.kind = .procedure) (h : Surrounded c l s)
    (he : exec i s = .next t) : Surrounded c l t := by
  cases i <;> simp only [Instr.kind, reduceCtorEq] at hi
  case close run ts => exact (h.closeRun run ts).of_outcome he
  case connect => cases he; exact ⟨h.cfg, h.inputs⟩
  case peerreset => cases he; exact ⟨h.cfg, h.inputs⟩
  case matchPacket idx seq payload n ts => exact (h.matchPacket idx seq payload n ts).of_outcome he
  case mismatch seq n => exact (h.mismatchPacket seq n).of_outcome he
  case ackcheck n => exact (h.ackCheck n).of_outcome he
  case sendack => exact (h.sendMessage _).of_outcome he
  case sendnack => exact (h.sendMessage _).of_outcome he
  case writeRecord sec usec payload => exact (h.writeRecord sec usec payload).of_outcome he
  case fatalIO ch => cases he; exact h.fatalIO ch

theorem Surrounded.emitRecord (h : Surrounded c l s) (sec usec : Long) (payload : Bytes) :
    (emitRecord sec usec payload s).Ends (Surrounded c l) := by
  unfold Machine.emitRecord
  split
  · exact Flow.ends_refuse _ _
  · exact h.memWrite .sink _

theorem surrounded_emitted {i : Instr} {t : State} (hi : i.kind = .emitted) (h : Surrounded c l s)
    (he : exec i s = .next t) : Surrounded c l t := by
  cases i <;> simp only [Instr.kind, reduceCtorEq] at hi
  case globalHeader => exact runEvent_ends he (h.memWrite .sink _)
  case recordHeader sec usec payload => exact runEvent_ends he (h.emitRecord sec usec payload)
  all_goals exact runEvent_ends he (h.sendMessage _)

theorem surrounded_exec {i : Instr} {t : State} (h : Surrounded c l s) (he : exec i s = .next t) : Surrounded c l t := by
  cases hk : i.kind with
  | pureOp => exact surrounded_pureOp hk h he
  | procedure => exact surrounded_procedure hk h he
  | event => exact surrounded_event hk h he
  | received => exact deliverable_keeps (fun _ _ _ hi h he => surrounded_event hi h he) (.inr hk) h he
  | emitted => exact surrounded_emitted hk h he

theorem surrounded_receiveBytes {bs : Bytes} {now : Timestamp} {t : State} (h : Surrounded c l s)
    (he : receiveBytes bs now s = .next t) : Surrounded c l t :=
  receiveBytes_keeps (fun _ _ _ _ h he => surrounded_exec h he) bs now h he

end

/-- A step leaves the parameters, and either the inputs too or all of them but the first. -/
theorem step_surroundings {s t : State} (h : step s = .next t) : Surrounded s.cfg s.inputs.tail t := by
  rcases step_next h with ⟨hin, rfl⟩ | ⟨x, rest, i, hin, -, he⟩ | ⟨x, rest, bs, hin, he⟩
  · exact ⟨rfl, by rw [hin]; rfl⟩
  · rw [hin]
    exact surrounded_exec (s := s.takeInput x rest) ⟨rfl, rfl⟩ he
  · rw [hin]
    exact surrounded_receiveBytes (s := s.takeInput x rest) ⟨rfl, rfl⟩ he

/-- Settles O58: every row keeps what surrounds it, and so does a step. -/
theorem constantsNeverChange : Obligations.ConstantsNeverChange :=
  ⟨fun _ _ _ he => (surrounded_exec ⟨rfl, rfl⟩ he).cfg, fun _ _ h => (step_surroundings h).cfg⟩

end Sys2Proof.Machine
end

section
/-! The invariants of R39: every step over inputs the environment can deliver keeps them, and the statement that says so. -/

namespace Sys2Proof.Machine

/-! ### One update each -/

/-- Another buffer, where it is empty outside a frame, holds no delimiter, and the idle phase stays outside a frame. -/
theorem SessionInv.withBuffer {s t : State} (h : SessionInv s)
    (ht : t = { s with receiving := t.receiving, rxBuf := t.rxBuf })
    (hempty : t.receiving = false → t.rxBuf = []) (hflag : flagByte ∉ t.rxBuf)
    (hidle : s.phase = .stopping → t.receiving = false) : SessionInv t := by
  rw [ht]
  exact {
    emptyOutside := hempty
    noDelimiter := hflag
    neverExpectsZero := h.neverExpectsZero
    freshSession := h.freshSession
    expectsSuccessor := h.expectsSuccessor
    headerFirst := h.headerFirst
    fatalStops := h.fatalStops
    idleOutside := hidle
    channelLegal := h.channelLegal }

theorem SessionInv.leaveFrame {s : State} (h : SessionInv s) : SessionInv s.leaveFrame :=
  h.withBuffer rfl (fun _ => rfl) (by simp) fun _ => rfl

theorem SessionInv.openFrame {s : State} (h : SessionInv s) (hp : s.phase ≠ .stopping) : SessionInv s.openFrame :=
  h.withBuffer rfl (fun _ => rfl) (by simp) fun hs => absurd hs hp

/-- A byte other than the delimiter, accumulated inside a frame or a run (R162, R167). -/
theorem SessionInv.append {s : State} {b : Byte} (h : SessionInv s) (hr : s.receiving = true) (hb : b ≠ flagByte) :
    SessionInv { s with rxBuf := s.rxBuf ++ [b] } := by
  refine h.withBuffer rfl (fun hf => absurd (hr.symm.trans hf) (by decide)) ?_ h.idleOutside
  rw [List.mem_append, List.mem_singleton, not_or]
  exact ⟨h.noDelimiter, hb.symm⟩

theorem SessionInv.dropRun {s : State} (h : SessionInv s) : SessionInv { s with rxBuf := [] } :=
  h.withBuffer rfl (fun _ => rfl) (by simp) h.idleOutside

theorem SessionInv.warn {s : State} (h : SessionInv s) (w : Warning) : SessionInv (s.warn w) :=
  h.congr rfl rfl rfl rfl rfl rfl rfl rfl rfl

/-- An empty frame is left with a warning (R168). -/
theorem SessionInv.emptyFrame {s : State} (h : SessionInv s) (he : s.rxBuf = []) :
    SessionInv { s.warn .emptyFrame with receiving := false } :=
  (h.warn .emptyFrame).withBuffer rfl (fun _ => he) h.noDelimiter fun _ => rfl

theorem SessionInv.countBytes {s : State} (h : SessionInv s) (n : Nat) : SessionInv (s.countBytes n) :=
  h.congr rfl rfl rfl rfl rfl rfl rfl rfl rfl

theorem SessionInv.clearCount {s : State} (h : SessionInv s) : SessionInv s.clearCount :=
  h.congr rfl rfl rfl rfl rfl rfl rfl rfl rfl

/-- The register writes of MATCH, for the packet that carries the expected number (R174). -/
theorem SessionInv.acceptPacket {s : State} (h : SessionInv s) (hp : s.phase = .connected) (idx : Half) :
    SessionInv (s.acceptPacket idx s.expectedSeqNr) := by
  have hne : s.expectedSeqNr ≠ 0 := h.neverExpectsZero hp
  exact {
    emptyOutside := h.emptyOutside
    noDelimiter := h.noDelimiter
    neverExpectsZero := fun _ => seqNext_ne_zero s.expectedSeqNr
    freshSession := fun _ h0 => absurd h0 hne
    expectsSuccessor := fun _ _ => rfl
    headerFirst := h.headerFirst
    fatalStops := h.fatalStops
    idleOutside := h.idleOutside
    channelLegal := h.channelLegal }

/-- CONNECT in an active session (R163). -/
theorem SessionInv.connect {s : State} (h : SessionInv s) (hp : s.phase ≠ .stopping) : SessionInv (connect s) where
  emptyOutside _ := rfl
  noDelimiter := by simp
  neverExpectsZero _ := show seqFirst ≠ 0 by decide
  freshSession _ _ := ⟨rfl, rfl⟩
  expectsSuccessor _ h0 := absurd rfl h0
  headerFirst _ := h.headerFirst hp
  fatalStops hf := absurd (h.fatalStops hf) hp
  idleOutside hs := by cases hs
  channelLegal _ := h.channelLegal hp

/-- PEERRESET in an active session (R171). -/
theorem SessionInv.peerReset {s : State} (h : SessionInv s) (hp : s.phase ≠ .stopping) : SessionInv (peerReset s) where
  emptyOutside := h.emptyOutside
  noDelimiter := h.noDelimiter
  neverExpectsZero hc := by cases hc
  freshSession hc := by cases hc
  expectsSuccessor hc := by cases hc
  headerFirst _ := h.headerFirst hp
  fatalStops hf := absurd (h.fatalStops hf) hp
  idleOutside hs := by cases hs
  channelLegal _ := h.channelLegal hp

/-- The register writes of START, its checks passed (R160). -/
theorem SessionInv.beginConnect {s : State} {ch : Byte} (hh : s.hdrWritten = true) (hc : legalChannel ch)
    (hf : s.fatal = false) : SessionInv (s.beginConnect ch) where
  emptyOutside _ := rfl
  noDelimiter := by simp
  neverExpectsZero hc := by cases hc
  freshSession hc := by cases hc
  expectsSuccessor hc := by cases hc
  headerFirst _ := hh
  fatalStops ht := absurd (hf.symm.trans ht) (by decide)
  idleOutside _ := rfl
  channelLegal _ := hc

theorem SessionInv.markHeader {s : State} (h : SessionInv s) : SessionInv s.markHeader where
  emptyOutside := h.emptyOutside
  noDelimiter := h.noDelimiter
  neverExpectsZero := h.neverExpectsZero
  freshSession := h.freshSession
  expectsSuccessor := h.expectsSuccessor
  headerFirst _ := rfl
  fatalStops := h.fatalStops
  idleOutside := h.idleOutside
  channelLegal := h.channelLegal

theorem SessionInv.takeInput {s : State} (h : SessionInv s) (x : Input) (rest : List Input) :
    SessionInv (s.takeInput x rest) :=
  h.congr rfl rfl rfl rfl rfl rfl rfl rfl rfl

/-! ### Rules -/

theorem SessionInv.sendMessage {s : State} (h : SessionInv s) (m : Bytes) : (sendMessage m s).Ends SessionInv :=
  sendMessage_ends (h.attempt .tx _) (SessionInv.fatalIO .tx _)

theorem SessionInv.ackCheck {s : State} (h : SessionInv s) (n : Nat) : (ackCheck n s).Ends SessionInv :=
  ackCheck_ends (h.countBytes n) ((h.countBytes n).attempt .tx _).clearCount (SessionInv.fatalIO .tx _)

theorem SessionInv.matchPacket {s : State} (h : SessionInv s) (hp : s.phase = .connected) (idx : Half) (payload : Bytes)
    (n : Nat) (ts : Timestamp) : (matchPacket idx s.expectedSeqNr payload n ts s).Ends SessionInv := by
  rcases writeRecord_cases ts.sec ts.usec payload (s.acceptPacket idx s.expectedSeqNr) with
    ⟨-, hw⟩ | ⟨-, -, hw⟩ | ⟨-, -, hw⟩ <;> rw [Machine.matchPacket, hw]
  · exact Flow.ends_refuse _ _
  · exact ((h.acceptPacket hp idx).attempt .sink _).ackCheck n
  · exact Flow.ends_dead (SessionInv.fatalIO .sink _)

theorem SessionInv.closeRun {s : State} (h : SessionInv s) (hp : s.phase = .connected) (run : Bytes) (ts : Timestamp) :
    (closeRun run ts s).Ends SessionInv := by
  rcases closeRun_cases run ts s with
    ⟨r, w, -, hc⟩ | ⟨crc, -, hc⟩ | ⟨_, _, _, _, p, crc, -, -, -, ⟨hq, hc⟩ | ⟨-, hc⟩⟩ <;> rw [hc]
  · exact (h.warn w).sendMessage _
  · exact Flow.ends_go (h.peerReset (by simp [hp]))
  · rw [hq]; exact h.matchPacket hp _ p _ ts
  · exact (h.warn _).ackCheck _

theorem SessionInv.endConnectRun {s : State} (h : SessionInv s) (hp : s.phase = .connecting) :
    SessionInv (endConnectRun s) := by
  rcases endConnectRun_cases s with ⟨-, he⟩ | ⟨-, he⟩ <;> rw [he]
  · exact h.dropRun.connect (by simp [hp])
  · exact h.dropRun

theorem SessionInv.rxRule {s : State} (h : SessionInv s) (b : Byte) (now : Timestamp) :
    (rxRule b now s).Ends SessionInv := by
  rcases rxRule_cases b now s with
    hc | ⟨-, hr, hb, hc⟩ | ⟨hp, -, -, hc⟩ | ⟨hp, -, -, hc⟩ | ⟨-, -, -, hc⟩ | ⟨-, -, -, he, hc⟩ | ⟨hp, -, -, -, hc⟩ <;> rw [hc]
  · exact Flow.ends_go h
  · exact appendByte_ends (h.append hr hb)
  · exact Flow.ends_go (h.openFrame hp)
  · exact Flow.ends_go (h.endConnectRun hp)
  · exact Flow.ends_go (h.warn _)
  · exact Flow.ends_go (h.emptyFrame he)
  · exact h.leaveFrame.closeRun hp s.rxBuf now

/-! ### Events and steps -/

theorem SessionInv.event {i : Instr} {s t : State} (hi : i.kind = .event) (h : SessionInv s) (he : exec i s = .next t) :
    SessionInv t := by
  apply event_ends hi he
  case hreset => exact fun _ => .idle rfl rfl rfl
  case hhdr =>
    exact fun _ _ => hdrRule_ends (fun _ _ => (h.attempt .sink _).markHeader) fun _ _ => SessionInv.fatalIO .sink _
  case hstart =>
    exact fun ch _ hf => startRule_ends fun hh hc _ => (SessionInv.beginConnect hh hc hf).sendMessage _
  case hwindow => exact fun _ _ => windowRule_ends h fun _ => h.leaveFrame.sendMessage _
  case hrx => exact fun b now _ _ => h.rxRule b now
  case htimeout => exact fun _ _ => timeoutRule_ends h fun _ _ => h.leaveFrame.sendMessage _
  case hstopreq =>
    exact fun _ _ => stopreqRule_ends h fun _ => (SessionInv.idle (s := s.endSession) rfl rfl rfl).sendMessage _

theorem traceDeliverable_of_tail {s t : State} (h : s.traceDeliverable) (ht : t.inputs = s.inputs.tail) :
    t.traceDeliverable := by
  intro x hx
  exact h x (List.mem_of_mem_tail (ht ▸ hx))

/-- Settles O53: every event keeps the invariants, so a step does (`step_keeps`); the inputs left are among those given. -/
theorem sessionInvariantIsKept : Obligations.SessionInvariantIsKept := by
  intro s t h hd hstep
  constructor
  · exact step_keeps (fun _ _ _ hi h he => h.event hi he) (fun _ x rest h => h.takeInput x rest) hd h hstep
  · exact traceDeliverable_of_tail hd (step_surroundings hstep).inputs

/-- Settles O52: the reset state is idle, with no input pending and nothing written. -/
theorem invariantsHoldAtReset : Obligations.InvariantsHoldAtReset := by
  refine ⟨.idle rfl rfl rfl, ?inputs, ?tx, rfl⟩
  case inputs => exact fun x hx => by cases hx
  case tx => exact fun e he => by cases he

end Sys2Proof.Machine
end

section
/-! The output streams (R79, R125, R217): what the rules of the events put on TX and on SINK, said once for every property
that the block's own emissions keep, and the two statements about the streams. -/

namespace Sys2Proof.Machine

/-- A property of the streams that each emission of the event rules keeps: the control frames, the header before anything
else, the records behind it. -/
structure StreamProperty (P : State → Prop) : Prop where
  /-- The property looks at the parameters, the header flag and the emissions only. -/
  congr : ∀ {s t : State}, t.cfg = s.cfg → t.hdrWritten = s.hdrWritten → (∀ c, t.emissions c = s.emissions c) → P s → P t
  control : ∀ {s : State} {m : Bytes}, OutboundMessage m → P s → P (s.attempt .tx (encodeFrame s.cfg.crcTable m))
  record : ∀ {s : State} {bytes : Bytes}, s.hdrWritten = true → IsRecord bytes → P s → P (s.attempt .sink bytes)
  header : ∀ {s : State}, s.hdrWritten = false → s.status .sink = .ok → P s →
    P (s.attempt .sink globalHeaderBytes).markHeader
  headerFail : ∀ {s : State}, s.status .sink = .fail → P s → P (s.attempt .sink globalHeaderBytes)
  reset : ∀ {s : State}, P s → P (resetState s)

section
variable {P : State → Prop} {s : State}

/-! ### Rules -/

theorem StreamProperty.sameOutputs (hP : StreamProperty P) {t : State} (hs : P s) (hc : t.cfg = s.cfg)
    (hh : t.hdrWritten = s.hdrWritten) (ho : t.outputs = s.outputs) : P t :=
  hP.congr hc hh (fun c => emissions_congr c ho) hs

theorem StreamProperty.warn (hP : StreamProperty P) (hs : P s) (w : Warning) : P (s.warn w) :=
  hP.congr (s := s) rfl rfl (emissions_warn s w) hs

theorem StreamProperty.signal (hP : StreamProperty P) (hs : P s) (g : Signal) : P (s.signal g) :=
  hP.congr (s := s) rfl rfl (emissions_signal s g) hs

theorem StreamProperty.fatalIO (hP : StreamProperty P) (hs : P s) (c : Chan) : P (fatalIO c s) := by
  unfold Machine.fatalIO
  dsimp only
  split
  · exact hP.sameOutputs (hP.control .stop (hP.signal hs (failSignal c))) rfl rfl rfl
  · exact hP.sameOutputs (hP.signal hs (failSignal c)) rfl rfl rfl

theorem StreamProperty.sendMessage (hP : StreamProperty P) (hs : P s) {m : Bytes} (hm : OutboundMessage m) :
    (sendMessage m s).Ends P :=
  sendMessage_ends (hP.control hm hs) (hP.fatalIO (hP.control hm hs) .tx)

theorem StreamProperty.ackCheck (hP : StreamProperty P) (hs : P s) (n : Nat) : (ackCheck n s).Ends P := by
  have hcount : P (s.countBytes n) := hP.sameOutputs hs rfl rfl rfl
  have hsent := hP.control (.ack s.lastIndex s.lastSeqNr) hcount
  exact ackCheck_ends hcount (hP.sameOutputs hsent rfl rfl rfl) (hP.fatalIO hsent .tx)

theorem isRecord_recordOf {payload : Bytes} (hne : payload ≠ []) (hl : payload.length ≤ 65535) (sec usec : Long) :
    IsRecord (recordOf sec usec payload) :=
  ⟨sec, usec, payload, decide_eq_true ⟨List.length_pos_iff.mpr hne, hl⟩, recordOf_eq hne sec usec⟩

theorem StreamProperty.matchPacket (hP : StreamProperty P) (hs : P s) (hh : s.hdrWritten = true) {payload : Bytes}
    (hne : payload ≠ []) (idx seq : Half) (n : Nat) (ts : Timestamp) : (matchPacket idx seq payload n ts s).Ends P := by
  have hregs : P (s.acceptPacket idx seq) := hP.sameOutputs hs rfl rfl rfl
  have hwritten : payload.length ≤ 65535 →
      P ((s.acceptPacket idx seq).attempt .sink (recordOf ts.sec ts.usec payload)) :=
    fun hl => hP.record (s := s.acceptPacket idx seq) hh (isRecord_recordOf hne hl ts.sec ts.usec) hregs
  rcases writeRecord_cases ts.sec ts.usec payload (s.acceptPacket idx seq) with
    ⟨-, hw⟩ | ⟨hl, -, hw⟩ | ⟨hl, -, hw⟩ <;> rw [Machine.matchPacket, hw]
  · exact Flow.ends_refuse _ _
  · exact hP.ackCheck (hwritten hl) n
  · exact Flow.ends_dead (hP.fatalIO (hwritten hl) .sink)

theorem StreamProperty.closeRun (hP : StreamProperty P) (hs : P s) (hh : s.hdrWritten = true) (run : Bytes)
    (ts : Timestamp) : (closeRun run ts s).Ends P := by
  rcases closeRun_cases run ts s with
    ⟨r, w, -, hc⟩ | ⟨crc, -, hc⟩ | ⟨_, _, _, _, p, crc, -, hne, -, ⟨-, hc⟩ | ⟨-, hc⟩⟩ <;> rw [hc]
  · exact hP.sendMessage (hP.warn hs w) (.nack _ _)
  · exact Flow.ends_go (hP.sameOutputs (hP.signal hs .peerReset) rfl rfl rfl)
  · exact hP.matchPacket hs hh hne _ _ _ ts
  · exact hP.ackCheck (hP.warn hs _) _

theorem StreamProperty.endConnectRun (hP : StreamProperty P) (hs : P s) : P (endConnectRun s) := by
  rcases endConnectRun_cases s with ⟨-, he⟩ | ⟨-, he⟩ <;> rw [he] <;> exact hP.sameOutputs hs rfl rfl rfl

theorem StreamProperty.rxRule (hP : StreamProperty P) (hs : P s) (hi : SessionInv s) (b : Byte) (now : Timestamp) :
    (rxRule b now s).Ends P := by
  rcases rxRule_cases b now s with
    hc | ⟨-, -, -, hc⟩ | ⟨-, -, -, hc⟩ | ⟨-, -, -, hc⟩ | ⟨-, -, -, hc⟩ | ⟨-, -, -, -, hc⟩ | ⟨hp, -, -, -, hc⟩ <;> rw [hc]
  · exact Flow.ends_go hs
  · exact appendByte_ends (hP.sameOutputs hs rfl rfl rfl)
  · exact Flow.ends_go (hP.sameOutputs hs rfl rfl rfl)
  · exact Flow.ends_go (hP.endConnectRun hs)
  · exact Flow.ends_go (hP.warn hs _)
  · exact Flow.ends_go (hP.sameOutputs (hP.warn hs _) rfl rfl rfl)
  · have hh : s.hdrWritten = true := hi.headerFirst (by simp [hp])
    exact hP.closeRun (s := s.leaveFrame) (hP.sameOutputs hs rfl rfl rfl) hh s.rxBuf now

/-! ### Events and steps -/

/-- From a state that meets the invariants of R39 every event keeps the property: they give WINDOW its legal channel and
MATCH its header. -/
theorem StreamProperty.event (hP : StreamProperty P) {i : Instr} {t : State} (hi : i.kind = .event) (hs : P s)
    (hinv : SessionInv s) (he : exec i s = .next t) : P t := by
  have hframe : P s.leaveFrame := hP.sameOutputs hs rfl rfl rfl
  apply event_ends hi he
  case hreset => exact fun _ => hP.reset hs
  case hhdr =>
    exact fun _ _ => hdrRule_ends (fun hh ho => hP.header hh ho hs) fun _ hf => hP.fatalIO (hP.headerFail hf hs) .sink
  case hstart =>
    exact fun ch _ _ => startRule_ends fun _ hc _ =>
      hP.sendMessage (s := s.beginConnect ch) (hP.sameOutputs hs rfl rfl rfl) (.rst ch hc)
  case hwindow =>
    exact fun _ _ => windowRule_ends hs fun hp =>
      hP.sendMessage hframe (.rst s.channel (hinv.channelLegal (by simp [hp])))
  case hrx => exact fun b now _ _ => hP.rxRule hs hinv b now
  case htimeout => exact fun _ _ => timeoutRule_ends hs fun _ _ => hP.sendMessage hframe (.nack _ _)
  case hstopreq =>
    exact fun _ _ => stopreqRule_ends hs fun _ =>
      hP.sendMessage (s := s.endSession) (hP.sameOutputs hs rfl rfl rfl) .stop

/-- So does a step over inputs the environment can deliver. -/
theorem StreamProperty.step (hP : StreamProperty P) {t : State} (hinv : SessionInv s) (hd : s.traceDeliverable) (hs : P s)
    (h : step s = .next t) : P t := by
  have hev : ∀ i s t, i.kind = .event → P s ∧ SessionInv s → exec i s = .next t → P t ∧ SessionInv t :=
    fun _ _ _ hi ⟨hs, hinv⟩ he => ⟨hP.event hi hs hinv he, hinv.event hi he⟩
  have htake : ∀ s x rest, P s ∧ SessionInv s → P (State.takeInput s x rest) ∧ SessionInv (s.takeInput x rest) :=
    fun _ x rest ⟨hs, hinv⟩ => ⟨hP.sameOutputs hs rfl rfl rfl, hinv.takeInput x rest⟩
  exact (step_keeps hev htake hd ⟨hs, hinv⟩ h).1

end

/-! ### TX -/

theorem txStreamProperty : StreamProperty TxStreamInv where
  congr hc _ he hs := hs.congr hc (he .tx)
  control hm hs := hs.attempt_tx hm
  record _ _ hs := hs.attempt_sink _
  header _ _ hs := (hs.attempt_sink _).congr rfl rfl
  headerFail _ hs := hs.attempt_sink _
  reset _ := fun e he => by cases he

/-- Settles O54: the shape of TX is a stream property, kept by steps from states that meet the invariants. -/
theorem txCarriesOnlyOutboundMessages : Obligations.TxCarriesOnlyOutboundMessages :=
  fun _ _ hinv hd hs h => txStreamProperty.step hinv hd hs h

/-! ### SINK -/

/-- The header on a sink that holds nothing (R210, R217). -/
theorem CaptureStreamInv.attempt_header {s : State} (h : CaptureStreamInv s) (hh : s.hdrWritten = false)
    (hs : s.status .sink = .ok) : CaptureStreamInv (s.attempt .sink globalHeaderBytes).markHeader := by
  have hempty : s.written .sink = [] := by simpa [CaptureStreamInv, hh] using h
  have hw : (s.attempt .sink globalHeaderBytes).markHeader.written .sink = [globalHeaderBytes] := by
    have hmark : (s.attempt .sink globalHeaderBytes).markHeader.written .sink =
        (s.attempt .sink globalHeaderBytes).written .sink := rfl
    rw [hmark, written_attempt_ok hs, hempty]
    rfl
  exact ⟨[], hw, by simp⟩

theorem captureStreamProperty : StreamProperty CaptureStreamInv where
  congr _ hh he hs := hs.congr hh (he .sink)
  control _ hs := hs.attempt_tx _
  record {s _} hh hr hs := by
    cases hst : s.status .sink with
    | ok => exact hs.attempt_record hh hst hr
    | fail => exact hs.attempt_fail hst _
  header hh ho hs := hs.attempt_header hh ho
  headerFail hf hs := hs.attempt_fail hf _
  reset _ := rfl

/-- Settles O55: the shape of the capture stream is a stream property too. -/
theorem captureIsHeaderThenRecords : Obligations.CaptureIsHeaderThenRecords :=
  fun _ _ hinv hd hs h => captureStreamProperty.step hinv hd hs h

end Sys2Proof.Machine
end

section
/-! The events as a whole (R184, R187, R232, R250): which phases they lead to, that the connect phase never warns, and when
they run; and the three statements about these. -/

namespace Sys2Proof.Machine

/-! ### Phases (R187) -/

/-- The phase stands, or a write failed and FatalIO has stopped the session. -/
def PhaseKept (s t : State) : Prop := t.phase = s.phase ∨ (t.phase = .stopping ∧ t.fatal = true)

theorem phaseKept_fatalIO (r : State) (c : Chan) (s : State) : PhaseKept r (fatalIO c s) :=
  .inr ⟨(fatalIO_fields c s).1, (fatalIO_fields c s).2.1⟩

theorem sendMessage_phase (m : Bytes) (s : State) : (sendMessage m s).Ends (PhaseKept s) :=
  sendMessage_ends (.inl (by simp)) (phaseKept_fatalIO s .tx _)

theorem ackCheck_phase (n : Nat) (s : State) : (ackCheck n s).Ends (PhaseKept s) :=
  ackCheck_ends (.inl rfl) (.inl rfl) (phaseKept_fatalIO s .tx _)

theorem matchPacket_phase (idx seq : Half) (payload : Bytes) (n : Nat) (ts : Timestamp) (s : State) :
    (matchPacket idx seq payload n ts s).Ends (PhaseKept s) := by
  rcases writeRecord_cases ts.sec ts.usec payload (s.acceptPacket idx seq) with
    ⟨-, hw⟩ | ⟨-, -, hw⟩ | ⟨-, -, hw⟩ <;> rw [matchPacket, hw]
  · exact Flow.ends_refuse _ _
  · exact ackCheck_phase n _
  · exact Flow.ends_dead (phaseKept_fatalIO s .sink _)

/-- A closed run leaves the phase, or is READY and leads to the connect phase (R171). -/
theorem closeRun_phase (run : Bytes) (ts : Timestamp) (s : State) :
    (closeRun run ts s).Ends fun t =>
      PhaseKept s t ∨ (t.phase = .connecting ∧ ∃ crc, (deframe s.cfg.crcTable run).1 = .ok mkReady crc) := by
  rcases closeRun_cases run ts s with
    ⟨r, w, -, hc⟩ | ⟨crc, hd, hc⟩ | ⟨_, _, _, _, p, crc, -, -, -, ⟨-, hc⟩ | ⟨-, hc⟩⟩ <;> rw [hc]
  · exact (sendMessage_phase _ (s.warn w)).mono fun _ => .inl
  · exact Flow.ends_go (.inr ⟨rfl, crc, by rw [hd]⟩)
  · exact (matchPacket_phase _ _ p _ ts s).mono fun _ => .inl
  · exact (ackCheck_phase _ (s.warn _)).mono fun _ => .inl

/-- RX leaves the phase, or is the delimiter that ends READY and takes the session to its other live phase. -/
theorem rxRule_phase (b : Byte) (now : Timestamp) (s : State) :
    (rxRule b now s).Ends fun t =>
      PhaseKept s t ∨
      (((s.phase = .connecting ∧ t.phase = .connected) ∨ (s.phase = .connected ∧ t.phase = .connecting)) ∧
        s.receiving = true ∧ b = flagByte ∧ ∃ crc, (deframe s.cfg.crcTable s.rxBuf).1 = .ok mkReady crc) := by
  rcases rxRule_cases b now s with
    hc | ⟨-, -, -, hc⟩ | ⟨-, -, -, hc⟩ | ⟨hp, hr, hb, hc⟩ | ⟨-, -, -, hc⟩ | ⟨-, -, -, -, hc⟩ | ⟨hp, hr, hb, -, hc⟩ <;> rw [hc]
  · exact Flow.ends_go (.inl (.inl rfl))
  · exact appendByte_ends (.inl (.inl rfl))
  · exact Flow.ends_go (.inl (.inl rfl))
  · rcases endConnectRun_cases s with ⟨hready, he⟩ | ⟨-, he⟩ <;> rw [he]
    · exact Flow.ends_go (.inr ⟨.inl ⟨hp, rfl⟩, hr, hb, hready⟩)
    · exact Flow.ends_go (.inl (.inl rfl))
  · exact Flow.ends_go (.inl (.inl rfl))
  · exact Flow.ends_go (.inl (.inl rfl))
  · exact (closeRun_phase s.rxBuf now s.leaveFrame).mono fun t ht =>
      ht.imp id fun ⟨hc, hready⟩ => ⟨.inr ⟨hp, hc⟩, hr, hb, hready⟩

/-- The run in the buffer is READY, and the event is the delimiter that ends it. -/
def EndsReady (i : Instr) (s : State) : Prop :=
  s.receiving = true ∧ ∃ now crc, i = .rx flagByte now ∧ (deframe s.cfg.crcTable s.rxBuf).1 = .ok mkReady crc

/-- The table of R187: how an event takes one phase to another. -/
inductive Transition (i : Instr) (s t : State) : Prop where
  | reset (hi : i = .reset) (ht : t.phase = .stopping)
  | start (hs : s.phase = .stopping) (ht : t.phase = .connecting) (hi : ∃ ch, i = .start ch)
  | connects (hs : s.phase = .connecting) (ht : t.phase = .connected) (hi : EndsReady i s)
  | peerReset (hs : s.phase = .connected) (ht : t.phase = .connecting) (hi : EndsReady i s)
  | stop (ht : t.phase = .stopping) (hi : i = .stopreq)
  | failedWrite (ht : t.phase = .stopping) (hf : t.fatal = true)

theorem PhaseKept.failedWrite {s t : State} (h : PhaseKept s t) (i : Instr) (hne : t.phase ≠ s.phase) :
    Transition i s t :=
  have ⟨ht, hf⟩ := h.resolve_left hne
  .failedWrite ht hf

theorem startRule_transition (ch : Byte) (s : State) :
    (startRule ch s).Ends fun t => t.phase ≠ s.phase → Transition (.start ch) s t := by
  refine startRule_ends fun _ _ hp => (sendMessage_phase _ (s.beginConnect ch)).mono fun t ht hne => ?_
  rcases ht with hc | ⟨ht, hf⟩
  · have hs : s.phase = .stopping := by
      cases h : s.phase with
      | stopping => rfl
      | connecting => exact absurd (hc.trans h.symm) hne
      | connected => exact absurd h hp
    exact .start hs hc ⟨ch, rfl⟩
  · exact .failedWrite ht hf

theorem rxRule_transition (b : Byte) (now : Timestamp) (s : State) :
    (rxRule b now s).Ends fun t => t.phase ≠ s.phase → Transition (.rx b now) s t := by
  refine (rxRule_phase b now s).mono fun t ht hne => ?_
  rcases ht with hkept | ⟨⟨hs, ht⟩ | ⟨hs, ht⟩, hr, rfl, crc, hd⟩
  · exact hkept.failedWrite _ hne
  · exact .connects hs ht ⟨hr, now, crc, rfl, hd⟩
  · exact .peerReset hs ht ⟨hr, now, crc, rfl, hd⟩

/-- An event that changes the phase follows the table; HDR, WINDOW and TIMEOUT do so by a failed write only. -/
theorem event_transition {i : Instr} {s t : State} (hi : i.kind = .event) (he : exec i s = .next t) :
    t.phase ≠ s.phase → Transition i s t := by
  apply event_ends (P := fun t => t.phase ≠ s.phase → Transition i s t) hi he
  case hreset => exact fun hr _ => .reset hr rfl
  case hhdr =>
    exact fun _ _ => hdrRule_ends (fun _ _ hne => absurd rfl hne)
      fun _ _ => (phaseKept_fatalIO s .sink _).failedWrite i
  case hstart => rintro ch rfl -; exact startRule_transition ch s
  case hwindow =>
    exact fun _ _ => windowRule_ends (fun hne => absurd rfl hne) fun _ =>
      (sendMessage_phase _ s.leaveFrame).mono fun t ht => PhaseKept.failedWrite (s := s) ht i
  case hrx => rintro b now rfl -; exact rxRule_transition b now s
  case htimeout =>
    exact fun _ _ => timeoutRule_ends (fun hne => absurd rfl hne) fun _ _ =>
      (sendMessage_phase _ s.leaveFrame).mono fun t ht => PhaseKept.failedWrite (s := s) ht i
  case hstopreq =>
    exact fun hq _ => stopreqRule_ends (fun hne => absurd rfl hne) fun _ =>
      (sendMessage_phase _ s.endSession).mono fun t ht _ => .stop (ht.elim id And.left) hq

/-- Settles O57: each row of `event_transition`'s table is an alternative of the statement. -/
theorem phaseTransitions : Obligations.PhaseTransitions := by
  intro i s t hi he hne
  cases event_transition hi he hne with
  | reset hi ht => exact .inl ⟨hi, ht⟩
  | start hs ht hi => exact .inr (.inl ⟨hs, ht, hi⟩)
  | connects hs ht hi => exact .inr (.inr (.inl ⟨hs, hi.1, ht, hi.2⟩))
  | peerReset hs ht hi => exact .inr (.inr (.inr (.inl ⟨hs, hi.1, ht, hi.2⟩)))
  | stop ht hi => exact .inr (.inr (.inr (.inr (.inl ⟨ht, hi⟩))))
  | failedWrite ht hf => exact .inr (.inr (.inr (.inr (.inr ⟨ht, hf⟩))))

/-! ### Warnings (R232) -/

/-- The history grew, and by no warning. -/
def AddsNoWarning (s t : State) : Prop :=
  ∃ added : List Output, t.outputs = s.outputs ++ added ∧ ∀ w : Warning, Output.warn w ∉ added

theorem AddsNoWarning.same {s t : State} (h : t.outputs = s.outputs) : AddsNoWarning s t :=
  ⟨[], by rw [h, List.append_nil], fun _ => List.not_mem_nil⟩

theorem AddsNoWarning.attempt (s : State) (c : Chan) (bytes : Bytes) : AddsNoWarning s (s.attempt c bytes) :=
  ⟨[.emission c bytes (s.status c)], State.attempt_outputs s c bytes, by simp⟩

theorem AddsNoWarning.fatalIO {r s : State} (h : AddsNoWarning r s) (c : Chan) : AddsNoWarning r (fatalIO c s) := by
  obtain ⟨added, ho, hw⟩ := h
  rcases fatalIO_outputs c s with hf | hf <;> rw [ho, List.append_assoc] at hf
  · exact ⟨_, hf, by simp [hw]⟩
  · exact ⟨_, hf, by simp [hw]⟩

theorem sendMessage_addsNoWarning (m : Bytes) (s : State) : (sendMessage m s).Ends (AddsNoWarning s) :=
  sendMessage_ends (.attempt s .tx _) ((AddsNoWarning.attempt s .tx _).fatalIO .tx)

/-- RX in the connect phase writes no output at all (R162). -/
theorem rxRule_connecting_outputs {s : State} (hp : s.phase = .connecting) (b : Byte) (now : Timestamp) :
    (rxRule b now s).Ends fun t => t.outputs = s.outputs := by
  have hnc : s.phase ≠ .connected := by simp [hp]
  rcases rxRule_cases b now s with
    hc | ⟨-, -, -, hc⟩ | ⟨-, -, -, hc⟩ | ⟨-, -, -, hc⟩ | ⟨hp', -⟩ | ⟨hp', -⟩ | ⟨hp', -⟩
  · rw [hc]; exact Flow.ends_go rfl
  · rw [hc]; exact appendByte_ends rfl
  · rw [hc]; exact Flow.ends_go rfl
  · rw [hc]
    rcases endConnectRun_cases s with ⟨-, he⟩ | ⟨-, he⟩ <;> rw [he] <;> exact Flow.ends_go rfl
  all_goals exact absurd hp' hnc

/-- Settles O59: in the connect phase RX writes nothing, TIMEOUT does nothing, and the other events only emit and signal. -/
theorem connectPhaseNeverWarns : Obligations.ConnectPhaseNeverWarns := by
  intro i s t hi hreset hp he
  apply event_ends (P := AddsNoWarning s) hi he
  case hreset => exact fun hr => absurd hr hreset
  case hhdr =>
    exact fun _ _ => hdrRule_ends (fun _ _ => .attempt s .sink globalHeaderBytes)
      fun _ _ => (AddsNoWarning.attempt s .sink globalHeaderBytes).fatalIO .sink
  case hstart => exact fun ch _ _ => startRule_ends fun _ _ _ => sendMessage_addsNoWarning _ (s.beginConnect ch)
  case hwindow => exact fun _ _ => windowRule_ends (.same rfl) fun _ => sendMessage_addsNoWarning _ s.leaveFrame
  case hrx => exact fun b now _ _ => (rxRule_connecting_outputs hp b now).mono fun _ => .same
  case htimeout => exact fun _ _ => timeoutRule_ends (.same rfl) fun hc => absurd (hp.symm.trans hc) (by decide)
  case hstopreq => exact fun _ _ => stopreqRule_ends (.same rfl) fun _ => sendMessage_addsNoWarning _ s.endSession

/-! ### Running and refusing (R184, R250) -/

/-- The rule answers a next state, or is refused for a reason that meets the condition. -/
def Flow.RunsOr (f : Flow) (Q : Refusal → Prop) : Prop := (∃ t, f.outcome = .next t) ∨ ∃ r, f = .refuse r ∧ Q r

theorem Flow.runs_go (s : State) (Q : Refusal → Prop) : (Flow.go s).RunsOr Q := .inl ⟨s, rfl⟩
theorem Flow.runs_dead (s : State) (Q : Refusal → Prop) : (Flow.dead s).RunsOr Q := .inl ⟨s, rfl⟩
theorem Flow.runsOr_refuse {r : Refusal} {Q : Refusal → Prop} (h : Q r) : (Flow.refuse r).RunsOr Q := .inr ⟨r, rfl, h⟩

section
variable (Q : Refusal → Prop)

theorem sendMessage_runs (m : Bytes) (s : State) : (sendMessage m s).RunsOr Q := by
  rcases sendMessage_cases m s with h | h <;> rw [h]
  · exact Flow.runs_go _ Q
  · exact Flow.runs_dead _ Q

theorem ackCheck_runs (n : Nat) (s : State) : (ackCheck n s).RunsOr Q := by
  rcases ackCheck_cases n s with h | h | h <;> rw [h]
  · exact Flow.runs_go _ Q
  · exact Flow.runs_go _ Q
  · exact Flow.runs_dead _ Q

variable {Q}

/-- MATCH is refused for its payload's length only (R214). -/
theorem matchPacket_runsOr {payload : Bytes} (hQ : 65535 < payload.length → Q .payloadTooLong) (idx seq : Half) (n : Nat)
    (ts : Timestamp) (s : State) : (matchPacket idx seq payload n ts s).RunsOr Q := by
  rcases writeRecord_cases ts.sec ts.usec payload (s.acceptPacket idx seq) with
    ⟨hl, hw⟩ | ⟨-, -, hw⟩ | ⟨-, -, hw⟩ <;> rw [matchPacket, hw]
  · exact Flow.runsOr_refuse (hQ hl)
  · exact ackCheck_runs Q n _
  · exact Flow.runs_dead _ Q

/-- A closed run is refused where it carries the expected packet with a payload too long to record. -/
theorem closeRun_runsOr {run : Bytes} {s : State}
    (hQ : ∀ msg crc, (deframe s.cfg.crcTable run).1 = .ok msg crc → (parsePkt msg).2.1 = s.expectedSeqNr →
      65535 < (parsePkt msg).2.2.length → Q .payloadTooLong) (ts : Timestamp) : (closeRun run ts s).RunsOr Q := by
  rcases closeRun_cases run ts s with
    ⟨r, w, -, hc⟩ | ⟨crc, -, hc⟩ | ⟨a, b, c, d, p, crc, hd, hne, -, ⟨hq, hc⟩ | ⟨-, hc⟩⟩ <;> rw [hc]
  · exact sendMessage_runs Q _ _
  · exact Flow.runs_go _ Q
  · refine matchPacket_runsOr (fun hl => hQ (a :: b :: c :: d :: p) crc (by rw [hd]) ?number ?length) _ _ _ ts s
    case number => rw [parsePkt_cons a b c d hne, hq]
    case length => rwa [parsePkt_cons a b c d hne]
  · exact ackCheck_runs Q _ _

end

theorem rxRule_runsOr (b : Byte) (now : Timestamp) (s : State) :
    (rxRule b now s).RunsOr (RefusedByR250 (.rx b now) s) := by
  rcases rxRule_cases b now s with
    hc | ⟨hp, hr, hb, hc⟩ | ⟨-, -, -, hc⟩ | ⟨-, -, -, hc⟩ | ⟨-, -, -, hc⟩ | ⟨-, -, -, -, hc⟩ | ⟨hp, hr, rfl, -, hc⟩ <;> rw [hc]
  · exact Flow.runs_go _ _
  · cases hfull : s.bufferFull with
    | false => rw [appendByte_go hfull]; exact Flow.runs_go _ _
    | true =>
      obtain ⟨k, hk, hl⟩ := (bufferFull_iff s).mp hfull
      rw [appendByte_full hfull]
      exact Flow.runsOr_refuse (.bufferOverflow b now k rfl hb hp hr hk hl)
  · exact Flow.runs_go _ _
  · exact Flow.runs_go _ _
  · exact Flow.runs_go _ _
  · exact Flow.runs_go _ _
  · exact closeRun_runsOr (s := s.leaveFrame) (fun msg crc hd hs hl => .payloadTooLong now msg crc rfl hp hr hd hs hl) now

theorem hdrRule_runsOr (s : State) : (hdrRule s).RunsOr (RefusedByR250 .hdr s) := by
  unfold hdrRule
  split
  case isTrue hh => exact Flow.runsOr_refuse (.headerAlreadyWritten rfl hh)
  case isFalse =>
    rcases memWrite_cases .sink globalHeaderBytes s with ⟨-, hw⟩ | ⟨-, hw⟩ <;> rw [hw] <;> exact .inl ⟨_, rfl⟩

theorem startRule_runsOr (ch : Byte) (s : State) : (startRule ch s).RunsOr (RefusedByR250 (.start ch) s) := by
  unfold startRule
  split
  case isTrue hh => exact Flow.runsOr_refuse (.startBeforeHeader ch rfl hh)
  case isFalse =>
    split
    case isTrue hc =>
      rw [legalChannel_iff] at hc
      exact Flow.runsOr_refuse (.channelOutOfRange ch rfl (by omega))
    case isFalse =>
      split
      case isTrue hp => exact Flow.runsOr_refuse (.startWhileConnected ch rfl hp)
      case isFalse => exact sendMessage_runs _ _ _

section
variable (Q : Refusal → Prop) (s : State)

theorem windowRule_runs : (windowRule s).RunsOr Q := by
  unfold windowRule
  split
  · exact sendMessage_runs Q _ _
  · exact Flow.runs_go _ Q
  · exact Flow.runs_go _ Q

theorem timeoutRule_runs : (timeoutRule s).RunsOr Q := by
  unfold timeoutRule
  split
  · split
    · exact sendMessage_runs Q _ _
    · exact Flow.runs_go _ Q
  · exact Flow.runs_go _ Q
  · exact Flow.runs_go _ Q

theorem stopreqRule_runs : (stopreqRule s).RunsOr Q := by
  unfold stopreqRule
  split
  · exact Flow.runs_go _ Q
  · exact sendMessage_runs Q _ _
  · exact sendMessage_runs Q _ _

end

/-- An event runs or is refused as its rule, or because the session is fatal (R250). -/
theorem runEvent_runsOr {i : Instr} {s : State} {rule : State → Flow} (hi : i ≠ .reset)
    (h : (rule s).RunsOr (RefusedByR250 i s)) :
    (∃ t, runEvent s rule = .next t) ∨ ∃ r, runEvent s rule = .refused r ∧ RefusedByR250 i s r := by
  cases hf : s.fatal with
  | true => exact .inr ⟨_, runEvent_fatal hf rule, .eventWhileFatal hf hi⟩
  | false =>
    rw [runEvent_live hf rule]
    rcases h with hrun | ⟨r, hr, hq⟩
    · exact .inl hrun
    · exact .inr ⟨r, by rw [hr]; rfl, hq⟩

theorem event_runsOr {i : Instr} (s : State) (hi : i.kind = .event) :
    (∃ t, exec i s = .next t) ∨ ∃ r, exec i s = .refused r ∧ RefusedByR250 i s r := by
  cases i <;> simp only [Instr.kind, reduceCtorEq] at hi
  case reset => exact .inl ⟨resetState s, rfl⟩
  case hdr => exact runEvent_runsOr (by simp) (hdrRule_runsOr s)
  case start ch => exact runEvent_runsOr (by simp) (startRule_runsOr ch s)
  case window => exact runEvent_runsOr (by simp) (windowRule_runs _ s)
  case rx b now => exact runEvent_runsOr (by simp) (rxRule_runsOr b now s)
  case timeout => exact runEvent_runsOr (by simp) (timeoutRule_runs _ s)
  case stopreq => exact runEvent_runsOr (by simp) (stopreqRule_runs _ s)

/-- The payload of a decoded packet is at least six bytes shorter than its run: four bytes of header, two of checksum. -/
theorem payload_length_le {t : CrcTable} {run msg : Bytes} {crc : Half} (h : (deframe t run).1 = .ok msg crc) :
    (parsePkt msg).2.2.length + 6 ≤ run.length := by
  obtain ⟨-, -, h5, hu⟩ := deframe_ok (Prod.ext h rfl : deframe t run = (.ok msg crc, (deframe t run).2))
  have hrun := unstuff_length_le run.length run _ le_rfl hu
  obtain ⟨a, b, c, d, p, hne, rfl, hl⟩ := exists_packet h5
  rw [List.length_append, hl] at hrun
  rw [parsePkt_cons a b c d hne]
  simp only [List.length_cons, List.length_nil] at hrun
  dsimp only
  omega

/-- Settles O60: `event_runsOr`, and within the contract each condition of R250 fails. -/
theorem eventsRunWithinTheContract : Obligations.EventsRunWithinTheContract := by
  refine ⟨fun i s hi => event_runsOr s hi, fun i s hi hf hstart hhdr hrx => ?_⟩
  refine (event_runsOr s hi).resolve_right ?_
  rintro ⟨r, -, hr⟩
  cases hr with
  | eventWhileFatal ht => exact absurd (hf.symm.trans ht) (by decide)
  | startBeforeHeader ch hi hh => exact absurd (hh.symm.trans (hstart ch hi).1) (by decide)
  | channelOutOfRange ch hi hc =>
    obtain ⟨-, hlegal, -⟩ := hstart ch hi
    rw [legalChannel_iff] at hlegal
    omega
  | startWhileConnected ch hi hp => exact (hstart ch hi).2.2 hp
  | headerAlreadyWritten hi hh => exact absurd ((hhdr hi).symm.trans hh) (by decide)
  | bufferOverflow b now k hi _ _ _ hk => exact absurd ((hrx ⟨b, now, hi⟩).1.symm.trans hk) (by simp)
  | payloadTooLong now msg crc hi _ _ hd _ hl =>
    have hrun := payload_length_le hd
    have hmax := (hrx ⟨0x7E, now, hi⟩).2
    omega

end Sys2Proof.Machine
end
